-- ==== Sys2Proof/Word.lean ====
section
/-! DEFINITION. The widths of the block's values: command word, staging byte, colour (R70, R23, R18). -/

namespace Sys2Proof

/-- One `CMD64` command word (R70). -/
abbrev Word := BitVec 64

/-- One staging byte, which is also one byte of the wire (R23, R31). -/
abbrev Byte := BitVec 8

/-- A colour: red 23:16, green 15:8, blue 7:0 (R18). -/
abbrev Color := BitVec 24

end Sys2Proof
end

