-- ==== Sys2Proof/Machine/Shift.lean ====
section
/-! DEFINITION. The bit order inside one byte of the line (R13, R56) and the pulse shape of a symbol
byte (R9(b)). Nothing here is read by a step: it is the bit-level view and a configuration check. -/

namespace Sys2Proof

/-- `SHIFT_ORDER` (R13). -/
inductive ShiftOrder where
  | msbFirst
  | lsbFirst
deriving DecidableEq, Repr, Inhabited

namespace Machine

/-- `bits(b)` of R56: the eight line levels of one byte, first to last; `true` is high. -/
def shiftBits (order : ShiftOrder) (b : Byte) : List Bool :=
  match order with
  | .msbFirst => [7, 6, 5, 4, 3, 2, 1, 0].map b.getLsbD
  | .lsbFirst => [0, 1, 2, 3, 4, 5, 6, 7].map b.getLsbD

/-- The line levels of a pulse that is high for `h` bit times and low for the other `8 - h` (R9(b)). -/
def pulse (h : Nat) : List Bool :=
  List.replicate h true ++ List.replicate (8 - h) false

/-- The `h` for which a byte's levels are `pulse h`, if it has that shape at all (R9(b)). -/
def pulseLength (order : ShiftOrder) (b : Byte) : Option Nat :=
  (List.range 9).find? fun h => shiftBits order b == pulse h

end Machine
end Sys2Proof
end

