-- ==== Sys2Proof/Config.lean ====
section
/-! DEFINITION. The implementation parameters of R7 to R14, the checks a well-formed configuration
passes (R7 to R11, R15), the spec's test configuration TC0, the turns an environment can choose, and
the free values. A configuration is carried by the machine's state, so that one definition of the
machine covers every well-formed configuration. -/

namespace Sys2Proof

/-- `OVERSIZE_POLICY` (R12). -/
inductive OversizePolicy where
  | clamp
  | reject
deriving DecidableEq, Repr, Inhabited

/-- The parameters of R7 to R14, before any check. -/
structure Params where
  /-- `N`, the LED capacity (R7). -/
  ledCount : Nat
  /-- `RESET_BYTES`, the idle bytes that end a frame (R8). -/
  resetBytes : Nat
  /-- `SYMBOL_ZERO` (R9). -/
  symbolZero : Byte
  /-- `SYMBOL_ONE` (R9). -/
  symbolOne : Byte
  /-- `IDLE_BYTE` (R10). -/
  idleByte : Byte
  /-- `LEN_WIDTH`, the width of `DMA_CNT` in bits (R11). -/
  lenWidth : Nat
  /-- `OVERSIZE_POLICY` (R12). -/
  oversize : OversizePolicy
  /-- `SHIFT_ORDER` (R13). -/
  shiftOrder : ShiftOrder
  /-- `RESET_ZERO_FILL` (R14). -/
  resetZeroFill : Bool
deriving DecidableEq, Repr

/-- R9: the symbols differ, each is a high run then a low run in shift order, and
`1 <= h0 < h1 <= 7`. -/
def Params.symbolsOk (p : Params) : Bool :=
  p.symbolZero != p.symbolOne &&
    match Machine.pulseLength p.shiftOrder p.symbolZero,
          Machine.pulseLength p.shiftOrder p.symbolOne with
    | some h0, some h1 => decide (1 ≤ h0) && decide (h0 < h1) && decide (h1 ≤ 7)
    | _, _ => false

/-- The checks of R7 to R11, together. -/
def Params.wf (p : Params) : Bool :=
  decide (1 ≤ p.ledCount) && decide (p.ledCount ≤ 2 ^ 24 - 1) &&
  decide (1 ≤ p.resetBytes) &&
  p.symbolsOk &&
  (p.idleByte != p.symbolZero && p.idleByte != p.symbolOne) &&
  decide (p.ledCount * 24 + p.resetBytes ≤ 2 ^ p.lenWidth - 1)

/-- A well-formed configuration. R15: of a configuration that fails a check no state of the model
exists, which holds here because a `Config` carries its check. -/
structure Config extends Params where
  ok : toParams.wf = true
deriving DecidableEq, Repr

/-- The parameters of TC0 (92_eei_decisions.md D33). -/
def Params.tc0 : Params where
  ledCount := 3
  resetBytes := 2
  symbolZero := 0xC0
  symbolOne := 0xF8
  idleByte := 0x00
  lenWidth := 16
  oversize := .clamp
  shiftOrder := .msbFirst
  resetZeroFill := false

/-- TC0, the test configuration of the spec. DESIGN CHOICE (log entry 1): `State.reset` stands in
this configuration; every other statement is about every configuration. -/
def Config.tc0 : Config := { Params.tc0 with ok := by decide }

/-- What happens next. `app`, `irq`, `entry` and `dma` are the four agents of R3: a turn offers one of
them its step. `init` is the end of peripheral initialisation (R205 step 2) and `reset` the reset
input (R200), both from outside the block; `reset` says which commands the application then has to
issue (log entries 2 and 6). -/
inductive Turn where
  | app
  | irq
  | entry
  | dma
  | init
  | reset (commands : List Word)
deriving DecidableEq, Repr, Inhabited

/-- FREE VALUE (log entry 2): the turns of one gap of a round, by the number of the turn at which the
round begins and the number of the gap. R3 and R177: any enabled agent may step, in any order. -/
opaque Config.freeTurns : Nat → Nat → List Turn

/-- FREE VALUE (log entry 3): `PIX[i]` after a reset input at a given turn, where
`RESET_ZERO_FILL = false` (R201). -/
opaque Config.freePixel : Nat → Nat → Color

/-- FREE VALUE (log entry 3): `STAGE[j]` after a reset input at a given turn, where
`RESET_ZERO_FILL = false` (R201). -/
opaque Config.freeStage : Nat → Nat → Byte

/-- FREE VALUE (log entry 3): `RDATA` after a reset input at a given turn (R32, R200). -/
opaque Config.freeRdata : Nat → Color

end Sys2Proof
end

