-- ==== Sys2Proof/Syntax.lean ====
section
/-! DEFINITION. The five commands of R73 and the five fault codes of R171. -/

namespace Sys2Proof

/-- The five commands (R73), with the operands of R72. `index` and `count` are the unsigned naturals
of R72; `WellFormed.lean` bounds them by the field's width. -/
inductive Instr where
  /-- `setpixel index, color` (R100). -/
  | setpixel (index : Nat) (color : Color)
  /-- `fillall color` (R101). -/
  | fillall (color : Color)
  /-- `getpixel index` (R102). -/
  | getpixel (index : Nat)
  /-- `refresh count` (R140). -/
  | refresh (count : Nat)
  /-- `complete` (R147). -/
  | complete
deriving DecidableEq, Repr

/-- The block's own fault codes (R171): a command that fails a check records one in `FAULT`. They are
no stop of the machine: raising one is a next state (R170). -/
inductive FaultCode where
  /-- Code 1: `OPC` is not assigned (R75). -/
  | illegalOpcode
  /-- Code 2: a must-be-zero field is not zero (R74). -/
  | reservedNonzero
  /-- Code 3: GETPIXEL with `index >= N` (R102). -/
  | oobRead
  /-- Code 4: a command outside its context (R76, R178). -/
  | wrongContext
  /-- Code 5: COMPLETE with `BUSY = 0` (R147). -/
  | spuriousComplete
deriving DecidableEq, Repr

end Sys2Proof
end

