-- ==== Sys2Proof/WellFormed.lean ====
section
/-! DEFINITION. Which commands an encoding exists for: an index or a count fits its 24-bit field
(R71, R72, R79). -/

namespace Sys2Proof

/-- An `ARG` operand is a natural below `2^24` (R72, R79). -/
def argFits (n : Nat) : Bool := decide (n < 2 ^ 24)

/-- The command has an encoding: its index or count fits `ARG`. A colour always fits `COL`. -/
def Instr.wf : Instr → Bool
  | .setpixel index _ => argFits index
  | .fillall _ => true
  | .getpixel index => argFits index
  | .refresh count => argFits count
  | .complete => true

end Sys2Proof
end

