-- ==== Sys2Proof/Decode.lean ====
section
/-! DEFINITION. The decoder, total on all 64-bit words and rejecting by fault code (R71 to R77), and
the encoder (R79). The decoder reads no state: the context check of R76 step 3 comes after it. -/

namespace Sys2Proof

/-- `OPC = W[63:56]` (R71). -/
def opcOf (w : Word) : BitVec 8 := w.extractLsb' 56 8

/-- `ARG = W[55:32]` (R71). -/
def argOf (w : Word) : BitVec 24 := w.extractLsb' 32 24

/-- `RSV = W[31:24]` (R71). -/
def rsvOf (w : Word) : BitVec 8 := w.extractLsb' 24 8

/-- `COL = W[23:0]` (R71). -/
def colOf (w : Word) : BitVec 24 := w.extractLsb' 0 24

/-- One row of R74: a word of that opcode is well-formed exactly when `W & mask = fixed`. -/
structure Row where
  mask : Word
  fixed : Word
deriving DecidableEq, Repr

def rowSetpixel : Row := ⟨0xFF000000FF000000, 0x0100000000000000⟩
def rowFillall : Row := ⟨0xFFFFFFFFFF000000, 0x0200000000000000⟩
def rowGetpixel : Row := ⟨0xFF000000FFFFFFFF, 0x0300000000000000⟩
def rowRefresh : Row := ⟨0xFF000000FFFFFFFF, 0x0400000000000000⟩
def rowComplete : Row := ⟨0xFFFFFFFFFFFFFFFF, 0x0500000000000000⟩

/-- The whole of R74, in the table's order. -/
def opcodeTable : List Row :=
  [rowSetpixel, rowFillall, rowGetpixel, rowRefresh, rowComplete]

/-- `W & mask = match` (R74). -/
def Row.matches (r : Row) (w : Word) : Bool := w &&& r.mask == r.fixed

/-- What a word decodes to (R77). -/
inductive Decoded where
  | command (i : Instr)
  | rejected (code : FaultCode)
deriving DecidableEq, Repr

/-- R76 step 2: a word of an assigned opcode is its command if its must-be-zero fields are zero. -/
def checkRow (r : Row) (i : Instr) (w : Word) : Decoded :=
  if r.matches w then .command i else .rejected .reservedNonzero

/-- R73 to R77: the opcode first, then the must-be-zero fields. -/
def decode (w : Word) : Decoded :=
  if opcOf w = 0x01 then checkRow rowSetpixel (.setpixel (argOf w).toNat (colOf w)) w
  else if opcOf w = 0x02 then checkRow rowFillall (.fillall (colOf w)) w
  else if opcOf w = 0x03 then checkRow rowGetpixel (.getpixel (argOf w).toNat) w
  else if opcOf w = 0x04 then checkRow rowRefresh (.refresh (argOf w).toNat) w
  else if opcOf w = 0x05 then checkRow rowComplete .complete w
  else .rejected .illegalOpcode

/-- The word `{OPC, ARG, 0x00, COL}` (R79). -/
def packWord (opc : BitVec 8) (arg col : BitVec 24) : Word :=
  opc ++ arg ++ 0#8 ++ col

/-- `OPC` of a command (R73). -/
def Instr.opcode : Instr → BitVec 8
  | .setpixel _ _ => 0x01
  | .fillall _ => 0x02
  | .getpixel _ => 0x03
  | .refresh _ => 0x04
  | .complete => 0x05

/-- The word of a well-formed command, the fields R74 names being zero (R79). -/
def encode (i : Instr) : Word :=
  match i with
  | .setpixel index color => packWord i.opcode (BitVec.ofNat 24 index) color
  | .fillall color => packWord i.opcode 0 color
  | .getpixel index => packWord i.opcode (BitVec.ofNat 24 index) 0
  | .refresh count => packWord i.opcode (BitVec.ofNat 24 count) 0
  | .complete => packWord i.opcode 0 0

/-- The word an instruction of `nbits` bits stands for, its bits numbered as the opcode table numbers
them; every bit from `nbits` on is zero. -/
def tableWord (nbits w : Nat) : Word := BitVec.ofNat 64 (w % 2 ^ nbits)

/-- The decoder on a table row's bits. A command is one 64-bit value with no byte lanes (R55). -/
def decodeTableWord (nbits w : Nat) : Option Instr :=
  match decode (tableWord nbits w) with
  | .command i => some i
  | .rejected _ => none

end Sys2Proof
end

