-- ==== Sys2Proof/Machine/State.lean ====
section
/-! DEFINITION. The state of the block (10_state.md) and of the agents that step it (R3), as plain
data, the reasons a step can stop, and the state after reset (R200, R201). -/

namespace Sys2Proof.Machine

/-- An index-addressed array of `w`-bit entries (R17), as the entries that differ from what an
unlisted index reads as, in rising order of index. `Memory 8` is a list of `Host.Cell`. -/
abbrev Memory (w : Nat) := List (Nat × BitVec w)

/-- Why the machine stops with a fault. The block's own fault codes (R171) are not among them: raising
one is a next state (R170). -/
inductive Fault where
  /-- Raised by the DMA transfer step when `DMA_PTR >= L_MAX`, an index of `STAGE` that does not exist
  (R52). R150 says it cannot happen in a reachable state. SAFE: the machine stops. -/
  | stageIndexOutOfRange
deriving DecidableEq, Repr

/-- Why the machine refuses a step. -/
inductive Refusal where
  /-- An instruction that has no meaning yet, by its mnemonic. Raised by no arm of this model. SAFE. -/
  | notModelled (mnemonic : String)
  /-- A REFRESH presented without `INIT_DONE`: "The model has no step for a REFRESH presented without
  `INIT_DONE`" (R206; 93_implementation_defined.md U16 "refuse"). Raised by REFRESH. SAFE. -/
  | refreshBeforeInit
deriving DecidableEq, Repr

/-- What belongs to the agents and to the world outside the block, not to the block (R3, R21). -/
structure Agents where
  /-- The commands APP has still to issue, in program order; the first stands at the command port
  (R21, R33, R78). -/
  stream : List Word
  /-- The word of the handler program's one command, which IRQ presents (R176, R181). -/
  handlerWord : Word
  /-- APP has raised a fault and has no further step (R170). -/
  appStopped : Bool
  /-- IRQ has raised a fault and has no further step (R170, R181). -/
  irqStopped : Bool
  /-- `INIT_DONE`: peripheral initialisation has finished (R205, R206). -/
  initDone : Bool
  /-- What is left of the turns already chosen, the next one first. The model's own field
  (log entry 2). -/
  schedule : List Turn
  /-- The number of the next turn, at which the free values are read. The model's own field
  (log entry 2). -/
  tick : Nat
deriving DecidableEq, Repr

/-- The machine. The fields before `agents` are the block's; `cfg` is fixed for the machine. -/
structure State where
  /-- The configuration (R7 to R15). -/
  cfg : Config
  /-- `PIX`, the pixel memory (R22). -/
  pix : Memory 24
  /-- `STAGE`, the transmit staging buffer (R23). -/
  stage : Memory 8
  /-- `BUSY`, S1 (R24). -/
  busy : Bool
  /-- `CH_EN`, S2 (R25). -/
  chEn : Bool
  /-- `DMA_CNT`, S3, a natural below `2^LEN_WIDTH` (R26). -/
  dmaCnt : Nat
  /-- `DMA_PTR`, S4 (R27). -/
  dmaPtr : Nat
  /-- `TC_PEND`, S5 (R28). -/
  tcPend : Bool
  /-- `IN_IRQ`, S6: `false` is the thread context (R29). -/
  inIrq : Bool
  /-- `FAULT`, S7 (R30). -/
  fault : BitVec 8
  /-- `WIRE`, S8, the bytes shifted out, the first one first (R31). -/
  wire : List (BitVec 8)
  /-- `RDATA`, S9 (R32). -/
  rdata : BitVec 24
  /-- The GETPIXEL responses since reset, the first one first (R19, R78). -/
  responses : List (BitVec 24)
  /-- The agents (R3). -/
  agents : Agents
deriving DecidableEq, Repr

/-- The machine right after reset (R200, R201, R202), in configuration TC0. The spec leaves the
contents of `PIX` and `STAGE` and the value of `RDATA` open: zero here (DESIGN CHOICE, log entry 4).
`INIT_DONE` does not hold yet (R205), and APP has no command until one is given to it (log entry 6). -/
def State.reset : State where
  cfg := Config.tc0
  pix := []
  stage := []
  busy := false
  chEn := false
  dmaCnt := 0
  dmaPtr := 0
  tcPend := false
  inIrq := false
  fault := 0x00
  wire := []
  rdata := 0
  responses := []
  agents :=
    { stream := []
      handlerWord := 0x0500000000000000
      appStopped := false
      irqStopped := false
      initDone := false
      schedule := []
      tick := 0 }

end Sys2Proof.Machine
end

