-- ==== Sys2Proof/Machine/Memory.lean ====
section
/-! DEFINITION. Reading and writing one entry of an index-addressed array (R17, R51, R52), and the
canonical form an array is held in. -/

namespace Sys2Proof.Machine

/-- What an index that is not listed reads as. DESIGN CHOICE (log entry 4): the spec leaves the reset
contents open (R201); other contents are listed entry by entry. -/
def unlisted (w : Nat) : BitVec w := 0#w

/-- Read entry `k`. -/
def Memory.read {w : Nat} (m : Memory w) (k : Nat) : BitVec w :=
  match m with
  | [] => unlisted w
  | (a, v) :: rest => if k = a then v else Memory.read rest k

/-- Put an entry in front of entries of higher index, unless it is what an unlisted index reads as. -/
def Memory.put {w : Nat} (k : Nat) (v : BitVec w) (m : Memory w) : Memory w :=
  if v = unlisted w then m else (k, v) :: m

/-- Write entry `k`, keeping the indices rising and no entry equal to what is not listed. -/
def Memory.write {w : Nat} (m : Memory w) (k : Nat) (v : BitVec w) : Memory w :=
  match m with
  | [] => Memory.put k v []
  | (a, u) :: rest =>
    if k < a then Memory.put k v ((a, u) :: rest)
    else if k = a then Memory.put k v rest
    else (a, u) :: Memory.write rest k v

/-- Write a run of entries from index `k` on, in rising order. -/
def Memory.writeList {w : Nat} (m : Memory w) (k : Nat) (vs : List (BitVec w)) : Memory w :=
  match vs with
  | [] => m
  | v :: rest => Memory.writeList (Memory.write m k v) (k + 1) rest

/-- The array of `n` entries with the given contents. -/
def Memory.ofFn {w : Nat} (n : Nat) (contents : Nat → BitVec w) : Memory w :=
  Memory.writeList [] 0 ((List.range n).map contents)

/-- The indices rise strictly from `lo` on and no entry equals what is not listed. -/
def Memory.wfFrom {w : Nat} (lo : Nat) (m : Memory w) : Bool :=
  match m with
  | [] => true
  | (a, v) :: rest => decide (lo ≤ a) && (v != unlisted w) && Memory.wfFrom (a + 1) rest

/-- The canonical form: equal contents are equal lists. -/
def Memory.wf {w : Nat} (m : Memory w) : Bool := Memory.wfFrom 0 m

/-- Every listed index is below the array's length. -/
def Memory.within {w : Nat} (bound : Nat) (m : Memory w) : Bool :=
  m.all fun cell => decide (cell.1 < bound)

end Sys2Proof.Machine
end

