-- ==== Sys2Proof/Machine/Operands.lean ====
section
/-! DEFINITION. What the operands of a command name: an entry of `PIX`, the channels of a colour, the
effective count of a REFRESH and the length of its transfer (R15, R18, R51, R143). -/

namespace Sys2Proof.Machine

/-- `R(c) = c[23:16]` (R18). -/
def redOf (c : Color) : BitVec 8 := c.extractLsb' 16 8

/-- `G(c) = c[15:8]` (R18). -/
def greenOf (c : Color) : BitVec 8 := c.extractLsb' 8 8

/-- `B(c) = c[7:0]` (R18). -/
def blueOf (c : Color) : BitVec 8 := c.extractLsb' 0 8

/-- The colour `(r, g, b)` (R18). -/
def rgb (r g b : BitVec 8) : Color := r ++ g ++ b

/-- `L(c) = 24*c + RESET_BYTES` (R15). -/
def transferLength (p : Params) (c : Nat) : Nat := c * 24 + p.resetBytes

/-- `L_MAX = N*24 + RESET_BYTES`, the length of `STAGE` (R15, R23). -/
def stageLength (p : Params) : Nat := p.ledCount * 24 + p.resetBytes

/-- Whether an index names an entry of `PIX` (R51). -/
def inStrip (p : Params) (index : Nat) : Bool := decide (index < p.ledCount)

/-- The effective count of a REFRESH (R140, R143): the count itself up to `N`; above it `N` under
CLAMP, and none under REJECT. -/
def effectiveCount (p : Params) (count : Nat) : Option Nat :=
  if count ≤ p.ledCount then some count
  else
    match p.oversize with
    | .clamp => some p.ledCount
    | .reject => none

/-- A value as the `LEN_WIDTH`-bit counter `DMA_CNT` holds it (R26). R11 makes every length that a
REFRESH programs fit, so nothing is ever cut off. -/
def fitCounter (p : Params) (v : Nat) : Nat := v % 2 ^ p.lenWidth

end Sys2Proof.Machine
end

