-- ==== Sys2Proof/Machine/Flags.lean ====
section
/-! DEFINITION. The status flags (R34): which bit of `FAULT` a fault code sets (R30, R171), and when
a DMA step sets `TC_PEND` (R150). -/

namespace Sys2Proof.Machine

/-- The code's number in R171. -/
def codeNumber : FaultCode → Nat
  | .illegalOpcode => 1
  | .reservedNonzero => 2
  | .oobRead => 3
  | .wrongContext => 4
  | .spuriousComplete => 5

/-- Bit `k - 1` for code `k` (R30). -/
def faultBit (code : FaultCode) : BitVec 8 := 1#8 <<< (codeNumber code - 1)

/-- `FAULT` after a fault: its bit set, no bit cleared (R30, R170). -/
def recordFault (fault : BitVec 8) (code : FaultCode) : BitVec 8 := fault ||| faultBit code

/-- `TC_PEND` after a DMA step that leaves the counter at `cnt`: set when nothing is left to move,
as it was otherwise (R150). -/
def pendingAfter (cnt : Nat) (tcPend : Bool) : Bool := if cnt = 0 then true else tcPend

end Sys2Proof.Machine
end

