-- ==== Sys2Proof/Machine/Encoder.lean ====
section
/-! DEFINITION. The protocol encoder (41_encoder.md): `SYM`, `ENCODE`, `FRAME` and the inverse `DEC`.
Functions of their arguments and the configuration only (R127). -/

namespace Sys2Proof.Machine

/-- `SYM` (R120). -/
def symbolOf (p : Params) (b : Bool) : Byte := if b then p.symbolOne else p.symbolZero

/-- `chan(c, w)`: wire channel 0 is green, 1 red, 2 blue (R121, R122). -/
def wireChannel (c : Color) (w : Nat) : BitVec 8 :=
  if w = 0 then greenOf c else if w = 1 then redOf c else blueOf c

/-- The data bit that symbol byte `k` of a colour stands for (R122). -/
def wireBit (c : Color) (k : Nat) : Bool := (wireChannel c (k / 8)).getLsbD (7 - k % 8)

/-- `ENCODE(c)[k]` (R122). -/
def encodeByte (p : Params) (c : Color) (k : Nat) : Byte := symbolOf p (wireBit c k)

/-- `ENCODE(c)`: 24 symbol bytes (R122). -/
def encodeColor (p : Params) (c : Color) : List Byte := (List.range 24).map (encodeByte p c)

/-- `FRAME(P, c)[j]` (R123). -/
def frameByte (p : Params) (pixel : Nat → Color) (c j : Nat) : Byte :=
  if j < 24 * c then encodeByte p (pixel (j / 24)) (j % 24) else p.idleByte

/-- `FRAME(P, c)`: `L(c)` bytes (R123). -/
def frame (p : Params) (pixel : Nat → Color) (c : Nat) : List Byte :=
  (List.range (transferLength p c)).map (frameByte p pixel c)

/-- `DEC`: the data bit of a symbol byte, undefined (none) on any other byte (R126). -/
def decodeSymbol (p : Params) (b : Byte) : Option Bool :=
  if b = p.symbolOne then some true else if b = p.symbolZero then some false else none

/-- The bits of the line that a sequence of wire bytes gives, in the order they leave (R56). -/
def lineBits (p : Params) (bytes : List Byte) : List Bool := bytes.flatMap (shiftBits p.shiftOrder)

end Sys2Proof.Machine
end

