-- ==== Sys2Proof/Machine/Ops.lean ====
section
/-! DEFINITION. The named operations every meaning and every agent step is made of: the primitives of
R17, raising a fault (R170), interrupt entry and the return from it (R175, R181), the actions of a
transfer (R140, R142, R150), and reset (R200, R201). -/

namespace Sys2Proof.Machine

/-- What a step, a meaning or an agent answers. -/
abbrev Result := Host.Outcome State Fault Refusal

/-- `PixRead(i)` (R17). -/
def pixRead (s : State) (i : Nat) : Color := s.pix.read i

/-- `PixWrite(i, c)` (R17). -/
def pixWrite (i : Nat) (c : Color) (s : State) : State := { s with pix := s.pix.write i c }

/-- `PixWrite` on every entry (R101). -/
def pixFill (c : Color) (s : State) : State :=
  { s with pix := s.pix.writeList 0 (List.replicate s.cfg.ledCount c) }

/-- `StageRead(j)` (R17). -/
def stageRead (s : State) (j : Nat) : Byte := s.stage.read j

/-- `RDATA <- c; respond(RDATA)` (R102, R78). -/
def respond (c : Color) (s : State) : State :=
  { s with rdata := c, responses := s.responses ++ [c] }

/-- The agent that issues commands in the context `inIrq` has no further step (R170). -/
def stopIssuer (inIrq : Bool) (a : Agents) : Agents :=
  if inIrq then { a with irqStopped := true } else { a with appStopped := true }

/-- `raise Fault(code)` (R170): the bit is recorded and the issuing agent stops. Nothing else changes. -/
def raiseFault (code : FaultCode) (s : State) : State :=
  { s with fault := recordFault s.fault code, agents := stopIssuer s.inIrq s.agents }

/-- Interrupt entry: `TC_PEND <- 0; IN_IRQ <- 1`. It saves nothing (R175, R180). -/
def enterInterrupt (s : State) : State := { s with tcPend := false, inIrq := true }

/-- Return from the interrupt context: `IN_IRQ <- 0` (R147, R181). -/
def returnFromInterrupt (s : State) : State := { s with inIrq := false }

/-- `BUSY <- 0`, the release (R147). -/
def releaseBusy (s : State) : State := { s with busy := false }

/-- `BUSY <- 1`, the acquisition (R140). -/
def acquireBusy (s : State) : State := { s with busy := true }

/-- `CH_EN <- 0` (R140). -/
def disableChannel (s : State) : State := { s with chEn := false }

/-- `DMA_CNT <- L(c); DMA_PTR <- 0` (R140). -/
def programLength (c : Nat) (s : State) : State :=
  { s with dmaCnt := fitCounter s.cfg.toParams (transferLength s.cfg.toParams c), dmaPtr := 0 }

/-- `WriteFrame(c)`: bytes `0 .. L(c)-1` of `STAGE`, and no other (R125). -/
def writeFrame (c : Nat) (s : State) : State :=
  { s with stage := s.stage.writeList 0 (frame s.cfg.toParams (pixRead s) c) }

/-- `CH_EN <- 1` (R140). -/
def enableChannel (s : State) : State := { s with chEn := true }

/-- The source's five actions in their order (R142), which R140 makes one atomic step. -/
def startTransfer (c : Nat) (s : State) : State :=
  enableChannel (writeFrame c (programLength c (disableChannel (acquireBusy s))))

/-- The effects of a DMA step that moves the byte `b` (R150). -/
def moveByte (b : Byte) (s : State) : State :=
  { s with
    wire := s.wire ++ [b]
    dmaPtr := s.dmaPtr + 1
    dmaCnt := s.dmaCnt - 1
    tcPend := pendingAfter (s.dmaCnt - 1) s.tcPend }

/-- R76 step 3 for the commands of the thread context (R178). -/
def inThread (s : State) (meaning : State → Result) : Result :=
  if s.inIrq then .next (raiseFault .wrongContext s) else meaning s

/-- R76 step 3 for the command of the interrupt context (R178). -/
def inInterrupt (s : State) (meaning : State → Result) : Result :=
  if s.inIrq then meaning s else .next (raiseFault .wrongContext s)

/-- APP's head command leaves the port: it is performed, or it faults (R78; log entry 7). -/
def popCommand (s : State) : State :=
  { s with agents := { s.agents with stream := s.agents.stream.tail } }

/-- A REFRESH that R143 does not reject stands at the port: it is held while `BUSY = 1`, and APP's next
step performs it when that has ended (R33, R141). -/
def refreshWaits (s : State) : Bool :=
  match s.agents.stream with
  | [] => false
  | w :: _ =>
    match decode w with
    | .command (.setpixel _ _) => false
    | .command (.fillall _) => false
    | .command (.getpixel _) => false
    | .command (.refresh count) =>
      s.agents.initDone && (effectiveCount s.cfg.toParams count).isSome
    | .command .complete => false
    | .rejected _ => false

/-- One round of turns. Its gaps are free (R177). R188: in every round the DMA agent, ENTRY and IRQ have
a turn each, and so has APP where a REFRESH waits at the port (log entry 14). -/
def fairRound (s : State) : List Turn :=
  Config.freeTurns s.agents.tick 0 ++ .dma ::
    (Config.freeTurns s.agents.tick 1 ++ .entry ::
      (Config.freeTurns s.agents.tick 2 ++ .irq ::
        (Config.freeTurns s.agents.tick 3 ++ if refreshWaits s then [.app] else [])))

/-- The turns that come next: the schedule's, and a new round where it has none left. Never empty. -/
def turnsAhead (s : State) : List Turn :=
  match s.agents.schedule with
  | [] => fairRound s
  | t :: rest => t :: rest

/-- Whose turn it is (R3, R177, R188). -/
def nextTurn (s : State) : Turn := (turnsAhead s).headD .dma

/-- The turn is taken: the schedule moves on. Nothing of the block changes. -/
def takeTurn (s : State) : State :=
  { s with agents :=
      { s.agents with schedule := (turnsAhead s).tail, tick := s.agents.tick + 1 } }

/-- Contents of an array of `n` entries after reset (R201). -/
def resetContents {w : Nat} (p : Params) (n : Nat) (unspecified : Nat → BitVec w) : Memory w :=
  Memory.ofFn n (if p.resetZeroFill then fun _ => 0#w else unspecified)

/-- Reset (R200 to R203), with the values R201 and R32 leave unspecified as arguments, and the
commands APP has to issue afterwards. The configuration, the handler program, the schedule and the
turn number are no state that reset sets. -/
def resetBlock (pixel : Nat → Color) (staged : Nat → Byte) (rdata : Color) (commands : List Word)
    (s : State) : State :=
  { cfg := s.cfg
    pix := resetContents s.cfg.toParams s.cfg.ledCount pixel
    stage := resetContents s.cfg.toParams (stageLength s.cfg.toParams) staged
    busy := false
    chEn := false
    dmaCnt := 0
    dmaPtr := 0
    tcPend := false
    inIrq := false
    fault := 0x00
    wire := []
    rdata := rdata
    responses := []
    agents :=
      { s.agents with
        stream := commands
        appStopped := false
        irqStopped := false
        initDone := false } }

end Sys2Proof.Machine
end

