-- ==== Sys2Proof/Machine/Pixel.lean ====
section
/-! DEFINITION. The pixel memory commands (40_pixel_buffer.md). None of them reads or writes the
transfer engine (R103). -/

namespace Sys2Proof.Machine

/-- SETPIXEL (R100): writes the entry, and does nothing for an index outside the strip (R104). -/
def execSetpixel (index : Nat) (color : Color) (s : State) : Result :=
  inThread s fun s =>
    .next (if inStrip s.cfg.toParams index then pixWrite index color s else s)

/-- FILLALL (R101): writes every entry. -/
def execFillall (color : Color) (s : State) : Result :=
  inThread s fun s => .next (pixFill color s)

/-- GETPIXEL (R102): reads the entry into `RDATA` and responds with it, and raises OOB_READ for an
index outside the strip. -/
def execGetpixel (index : Nat) (s : State) : Result :=
  inThread s fun s =>
    .next (if inStrip s.cfg.toParams index then respond (pixRead s index) s
           else raiseFault .oobRead s)

end Sys2Proof.Machine
end

