-- ==== Sys2Proof/Machine/Transfer.lean ====
section
/-! DEFINITION. The transfer arbiter's commands (42_transfer.md). -/

namespace Sys2Proof.Machine

/-- A REFRESH that passes every check of R76 is held: its count is not rejected and `BUSY = 1`
(R141, R143). -/
def refreshHeld (count : Nat) (s : State) : Bool :=
  (effectiveCount s.cfg.toParams count).isSome && s.busy

/-- REFRESH (R140). Without `INIT_DONE` the model has no step for it (R206). A count above `N` under
REJECT has no effect at all (R143). While `BUSY = 1` it is held: nothing changes, and `appStep` leaves
it at the port (R141). Otherwise it starts the transfer. -/
def execRefresh (count : Nat) (s : State) : Result :=
  if s.agents.initDone then
    inThread s fun s =>
      match effectiveCount s.cfg.toParams count with
      | none => .next s
      | some c => .next (if s.busy then s else startTransfer c s)
  else .refused .refreshBeforeInit

/-- COMPLETE (R147): releases `BUSY` and returns from the interrupt context, and raises
SPURIOUS_COMPLETE where there is nothing to release. -/
def execComplete (s : State) : Result :=
  inInterrupt s fun s =>
    .next (if s.busy then returnFromInterrupt (releaseBusy s)
           else raiseFault .spuriousComplete s)

end Sys2Proof.Machine
end

