-- ==== Sys2Proof/Machine/Dispatch.lean ====
section
/-! DEFINITION. One arm per command: the meaning of R100 to R102, R140 and R147. -/

namespace Sys2Proof.Machine

def exec (i : Instr) (s : State) : Host.Outcome State Fault Refusal :=
  match i with
  | .setpixel index color => Sys2Proof.Machine.execSetpixel index color s
  | .fillall color => Sys2Proof.Machine.execFillall color s
  | .getpixel index => Sys2Proof.Machine.execGetpixel index s
  | .refresh count => Sys2Proof.Machine.execRefresh count s
  | .complete => Sys2Proof.Machine.execComplete s

end Sys2Proof.Machine
end

