-- ==== Sys2Proof/Machine/Agents.lean ====
section
/-! DEFINITION. The steps of the four agents of R3, and the two events from outside the block: the end
of peripheral initialisation (R205) and reset (R200). An agent that has no step when its turn comes
leaves everything as it is. -/

namespace Sys2Proof.Machine

/-- APP may step: the thread context, and it has not faulted (R170, R179). -/
def appMayIssue (s : State) : Bool := !s.inIrq && !s.agents.appStopped

/-- IRQ may step: the interrupt context, and it has not faulted (R170, R176). -/
def irqMayIssue (s : State) : Bool := s.inIrq && !s.agents.irqStopped

/-- The command waits at the port: a REFRESH after initialisation that is held (R33, R141). -/
def commandHeld (i : Instr) (s : State) : Bool :=
  match i with
  | .setpixel _ _ => false
  | .fillall _ => false
  | .getpixel _ => false
  | .refresh count => s.agents.initDone && refreshHeld count s
  | .complete => false

/-- A word at the port is performed or faults, in the order of checks of R76. -/
def issue (w : Word) (s : State) : Result :=
  match decode w with
  | .command i => exec i s
  | .rejected code => .next (raiseFault code s)

/-- A word at the port waits there (R33). A word that does not decode faults without holding (R76). -/
def wordHeld (w : Word) (s : State) : Bool :=
  match decode w with
  | .command i => commandHeld i s
  | .rejected _ => false

/-- The APP step (R3(a), R78): the head command is performed or faults and leaves the port; a held
REFRESH stays there and changes nothing. -/
def appStep (s : State) : Result :=
  match s.agents.stream with
  | [] => .next s
  | w :: _ =>
    if appMayIssue s && !wordHeld w s then issue w (popCommand s) else .next s

/-- The IRQ step (R3(b), R176): the handler program's one command. -/
def irqStep (s : State) : Result :=
  if irqMayIssue s then issue s.agents.handlerWord s else .next s

/-- The ENTRY step is enabled (R175). -/
def entryEnabled (s : State) : Bool := s.tcPend && !s.inIrq

/-- The ENTRY step (R3(d), R175). -/
def entryStep (s : State) : Result := .next (if entryEnabled s then enterInterrupt s else s)

/-- The DMA step is enabled (R150). -/
def dmaEnabled (s : State) : Bool := s.chEn && decide (0 < s.dmaCnt)

/-- The DMA step (R3(c), R150): one byte from `STAGE` to the line. -/
def dmaStep (s : State) : Result :=
  if dmaEnabled s then
    if s.dmaPtr < stageLength s.cfg.toParams then .next (moveByte (stageRead s s.dmaPtr) s)
    else .fault .stageIndexOutOfRange
  else .next s

/-- Peripheral initialisation finishes (R205 step 2). It touches no state of the block. -/
def initStep (s : State) : Result :=
  .next { s with agents := { s.agents with initDone := true } }

/-- The reset input (R200). What it leaves unspecified is a free value of this turn (R201, R32). -/
def resetStep (commands : List Word) (s : State) : Result :=
  .next (resetBlock (Config.freePixel s.agents.tick) (Config.freeStage s.agents.tick)
    (Config.freeRdata s.agents.tick) commands s)

/-- What happens at a turn. -/
def turnStep (t : Turn) (s : State) : Result :=
  match t with
  | .app => appStep s
  | .irq => irqStep s
  | .entry => entryStep s
  | .dma => dmaStep s
  | .init => initStep s
  | .reset commands => resetStep commands s

/-- The word stands where the issuing agent takes its next command, and the next turn is that
agent's; peripheral initialisation has finished and the agent has not stopped (log entry 6). -/
def presentWord (w : Word) (s : State) : State :=
  if s.inIrq then
    { s with agents :=
        { s.agents with
          handlerWord := w
          irqStopped := false
          initDone := true
          schedule := .irq :: s.agents.schedule } }
  else
    { s with agents :=
        { s.agents with
          stream := w :: s.agents.stream
          appStopped := false
          initDone := true
          schedule := .app :: s.agents.schedule } }

end Sys2Proof.Machine
end

