-- ==== Sys2Proof/Machine/Step.lean ====
section
/-! DEFINITION. One step of the machine: the turn is taken and its agent steps (R3, R61). -/

namespace Sys2Proof.Machine

/-- Every step of every agent is atomic, and the steps form one total order (R3, R61). -/
def step (s : State) : Host.Outcome State Fault Refusal := turnStep (nextTurn s) (takeTurn s)

/-- `s` with the table's word presented to the block, so that the next step runs it. -/
def State.withFetchWord (s : State) (nbits w : Nat) : State := presentWord (tableWord nbits w) s

end Sys2Proof.Machine
end

