-- ==== Sys2Proof/Machine/Assembler.lean ====
section
/-! DEFINITION. The textual form of a command and the word the assembler writes for it (R79, R80). A
line is a list of characters. The spec gives the five forms and not the blanks between their parts:
blanks separate words and are otherwise ignored (DESIGN CHOICE, log entry 8). -/

namespace Sys2Proof.Machine

def isBlankChar (c : Char) : Bool := c == ' ' || c == '\t'

/-- The comma and the brackets of a tuple are words of their own. -/
def isMarkChar (c : Char) : Bool := c == ',' || c == '(' || c == ')'

/-- The word read so far, its last character first, as a word of the line. -/
def finishToken (acc : List Char) : List (List Char) :=
  match acc with
  | [] => []
  | _ :: _ => [acc.reverse]

/-- The words of a line up to its comment, in lower case: mnemonics are case-insensitive (R79). -/
def tokensFrom (acc line : List Char) : List (List Char) :=
  match line with
  | [] => finishToken acc
  | c :: rest =>
    if c == ';' then finishToken acc
    else if isBlankChar c then finishToken acc ++ tokensFrom [] rest
    else if isMarkChar c then finishToken acc ++ [c] :: tokensFrom [] rest
    else tokensFrom (c.toLower :: acc) rest

def digitValue (base : Nat) (c : Char) : Option Nat :=
  let v :=
    if '0' ≤ c ∧ c ≤ '9' then c.toNat - '0'.toNat
    else if 'a' ≤ c ∧ c ≤ 'f' then c.toNat - 'a'.toNat + 10
    else base
  if v < base then some v else none

def digitsFrom (base acc : Nat) (ds : List Char) : Option Nat :=
  match ds with
  | [] => some acc
  | d :: rest => (digitValue base d).bind fun v => digitsFrom base (acc * base + v) rest

/-- At least one digit, and nothing but digits. -/
def numeral (base : Nat) (ds : List Char) : Option Nat :=
  match ds with
  | [] => none
  | _ :: _ => digitsFrom base 0 ds

/-- An unsigned integer in decimal or `0x` hexadecimal (R79). -/
def number (token : List Char) : Option Nat :=
  match token with
  | '0' :: 'x' :: ds => numeral 16 ds
  | ds => numeral 10 ds

/-- An operand out of range is an error (R79). -/
def numberBelow (bound : Nat) (token : List Char) : Option Nat :=
  (number token).bind fun n => if n < bound then some n else none

/-- `0xRRGGBB`, or a tuple of three channels (R79, R18). -/
def colorOperand (tokens : List (List Char)) : Option Color :=
  match tokens with
  | ['0' :: 'x' :: ds] =>
    if ds.length = 6 then (numeral 16 ds).map (BitVec.ofNat 24) else none
  | [['('], r, [','], g, [','], b, [')']] =>
    (numberBelow 256 r).bind fun r =>
    (numberBelow 256 g).bind fun g =>
    (numberBelow 256 b).map fun b =>
      BitVec.ofNat 8 r ++ BitVec.ofNat 8 g ++ BitVec.ofNat 8 b
  | _ => none

/-- `<index>` or `<count>` (R79). -/
def argOperand (token : List Char) : Option Nat := numberBelow (2 ^ 24) token

def setpixelName : List Char := ['s', 'e', 't', 'p', 'i', 'x', 'e', 'l']
def fillallName : List Char := ['f', 'i', 'l', 'l', 'a', 'l', 'l']
def getpixelName : List Char := ['g', 'e', 't', 'p', 'i', 'x', 'e', 'l']
def refreshName : List Char := ['r', 'e', 'f', 'r', 'e', 's', 'h']
def completeName : List Char := ['c', 'o', 'm', 'p', 'l', 'e', 't', 'e']

/-- The operands of a command with no operand but an index or a count. -/
def argOnly (tokens : List (List Char)) (build : Nat → Instr) : Option Instr :=
  match tokens with
  | [arg] => (argOperand arg).map build
  | _ => none

/-- The operands of `setpixel`. -/
def setpixelOperands (tokens : List (List Char)) : Option Instr :=
  match tokens with
  | index :: [','] :: color =>
    (argOperand index).bind fun i => (colorOperand color).map (Instr.setpixel i)
  | _ => none

/-- `complete` has no operand. -/
def completeOperands (tokens : List (List Char)) : Option Instr :=
  match tokens with
  | [] => some .complete
  | _ :: _ => none

/-- One of the five forms of R79, or an error. There is no pseudo-instruction (R80). -/
def parseTokens (tokens : List (List Char)) : Option Instr :=
  match tokens with
  | [] => none
  | name :: rest =>
    if name = setpixelName then setpixelOperands rest
    else if name = fillallName then (colorOperand rest).map Instr.fillall
    else if name = getpixelName then argOnly rest Instr.getpixel
    else if name = refreshName then argOnly rest Instr.refresh
    else if name = completeName then completeOperands rest
    else none

/-- The command of one line of text. -/
def parseLine (line : List Char) : Option Instr := parseTokens (tokensFrom [] line)

/-- The one word the assembler writes for a line, or none where it reports an error (R79, R80). -/
def assemble (line : List Char) : Option Word := (parseLine line).map encode

end Sys2Proof.Machine
end

