-- ==== Sys2Proof/Safety.lean ====
section
/-! DEFINITION. The terms that statements about runs are made in: which agents have a step, the
observation of a run (R19), the invariant of reachable states (R35 to R39), and the frames a run has
started (R152). -/

namespace Sys2Proof.Machine

/-- APP has a step: it may issue, and its head command is not held (R33, R141, R179). -/
def appEnabled (s : State) : Bool :=
  match s.agents.stream with
  | [] => false
  | w :: _ => appMayIssue s && !wordHeld w s

/-- No agent can step (R19). -/
def quiescent (s : State) : Bool :=
  !appEnabled s && !irqMayIssue s && !entryEnabled s && !dmaEnabled s

/-- The handler program is exactly one command, COMPLETE, and IRQ has not faulted (R176). -/
def HandlerReady (s : State) : Prop :=
  s.agents.handlerWord = encode .complete ∧ s.agents.irqStopped = false

/-- What is observed of a run (R19). -/
structure Observation where
  wire : List Byte
  responses : List Color
  fault : BitVec 8
deriving DecidableEq, Repr

def observe (s : State) : Observation := ⟨s.wire, s.responses, s.fault⟩

/-- A failed run (R19, R170; log entry 9). -/
def runFailed (s : State) : Bool := s.fault != 0

/-- An ended run: the command stream is exhausted, nothing is in flight, no agent can step and no
fault is recorded (R19, R170; log entry 9). -/
def runEnded (s : State) : Bool :=
  s.agents.stream.isEmpty && !s.busy && !s.tcPend && !s.inIrq && quiescent s && !runFailed s

/-- `n` steps. -/
def run (n : Nat) (s : State) : Result :=
  match n with
  | 0 => .next s
  | k + 1 =>
    match step s with
    | .next t => run k t
    | .fault r => .fault r
    | .refused r => .refused r

/-- The run from `s` comes to a state with the property, unless a reset input comes first. -/
def EventuallyOrReset (P : State → Prop) (s : State) : Prop :=
  ∃ (n : Nat) (t : State), run n s = .next t ∧ (P t ∨ ∃ cs, nextTurn t = .reset cs)

/-- Commands performed one after another, whatever the other agents would do. -/
def execAll (commands : List Instr) (s : State) : Result :=
  match commands with
  | [] => .next s
  | i :: rest =>
    match exec i s with
    | .next t => execAll rest t
    | .fault r => .fault r
    | .refused r => .refused r

/-- The invariant of the block's reachable states. -/
structure BlockInv (s : State) : Prop where
  /-- `PIX` is in canonical form and has `N` entries (R22). -/
  pix_wf : s.pix.wf = true
  pix_within : s.pix.within s.cfg.ledCount = true
  /-- `STAGE` is in canonical form and has `L_MAX` entries (R23). -/
  stage_wf : s.stage.wf = true
  stage_within : s.stage.within (stageLength s.cfg.toParams) = true
  /-- R35. -/
  idle : s.busy = false → s.dmaCnt = 0 ∧ s.tcPend = false ∧ s.inIrq = false
  /-- R36. -/
  pending : s.tcPend = true → s.busy = true ∧ s.dmaCnt = 0 ∧ s.inIrq = false
  /-- R37. -/
  handling : s.inIrq = true → s.busy = true ∧ s.dmaCnt = 0 ∧ s.tcPend = false
  /-- R38, before the first REFRESH. -/
  disabled : s.chEn = false → s.dmaCnt = 0 ∧ s.dmaPtr = 0 ∧ s.busy = false
  /-- R38, after it. -/
  length : s.chEn = true → ∃ c, c ≤ s.cfg.ledCount ∧
    s.dmaPtr + s.dmaCnt = transferLength s.cfg.toParams c
  /-- R39: a transfer in flight is being moved, or is pending, or is being handled. -/
  in_flight : s.busy = true → 0 < s.dmaCnt ∨ s.tcPend = true ∨ s.inIrq = true
  /-- Bits 7:5 of `FAULT` are always 0 (R30). -/
  fault_reserved : s.fault.extractLsb' 5 3 = 0

/-- The frame of the transfer that the step from `s` starts, if it starts one (R140, R152). -/
def startedFrame (s : State) : Option (List Byte) :=
  match nextTurn s, s.agents.stream with
  | .app, w :: _ =>
    match decode w with
    | .command (.refresh count) =>
      if appMayIssue s && !s.busy then
        (effectiveCount s.cfg.toParams count).map (frame s.cfg.toParams (pixRead s))
      else none
    | _ => none
  | _, _ => none

/-- The frames `F_1, F_2, …` started since reset (R152), after the step from `s`. -/
def framesAfter (frames : List (List Byte)) (s : State) : List (List Byte) :=
  match nextTurn s with
  | .reset _ => []
  | _ =>
    match startedFrame s with
    | some f => frames ++ [f]
    | none => frames

/-- R152: the wire is every earlier frame whole and in order, then the first `DMA_PTR` bytes of the
latest; what is still to be moved is the rest of that frame, which stands in `STAGE`. Before the first
REFRESH the wire is empty. -/
def WireIsFrames (frames : List (List Byte)) (s : State) : Prop :=
  match frames.getLast? with
  | none => s.wire = [] ∧ s.chEn = false
  | some f =>
    s.wire = frames.dropLast.flatten ++ f.take s.dmaPtr ∧
    s.chEn = true ∧
    s.dmaPtr + s.dmaCnt = f.length ∧
    ∀ j, (h : j < f.length) → stageRead s j = f[j]

end Sys2Proof.Machine
end

