-- ==== Sys2Proof/Certificates/Slice0/Obligations.lean ====
section
/-! DEFINITION. The statements about the machine. A state carries its configuration, so each of them is
about every well-formed configuration (R15), every content of the arrays, and every schedule. -/

open Sys2Proof Sys2Proof.Machine

/-! ## Encoding -/

/-- R77, R79: decoding the word of a well-formed command gives it back, with every operand. -/
def Obligations.DecodeOfEncodeIsTheCommand : Prop :=
  ∀ i : Instr, i.wf = true → decode (encode i) = .command i

/-- R74, R77: a word that decodes to a command is the one word of that command. -/
def Obligations.DecodedCommandHasOneWord : Prop :=
  ∀ (w : Word) (i : Instr), decode w = .command i → i.wf = true ∧ encode i = w

/-- R77. -/
def Obligations.DecodeIsTotalAndUnambiguous : Prop :=
  (∀ w : Word,
    (∃ i : Instr, i.wf = true ∧ decode w = .command i) ∨
    decode w = .rejected .illegalOpcode ∨ decode w = .rejected .reservedNonzero) ∧
  (∀ w : Word, opcodeTable.Pairwise fun a b => ¬ (a.matches w = true ∧ b.matches w = true)) ∧
  opcodeTable.Pairwise fun a b => opcOf a.fixed ≠ opcOf b.fixed

/-- R75, R170: a word of an unassigned opcode decodes to ILLEGAL_OPCODE, and APP's or IRQ's presenting
it sets `FAULT[0]`, stops the agent and changes nothing else of the block. That APP's word leaves the
port is the model's choice (log entry 7), as is that IRQ can be given another word than COMPLETE's
(log entry 5). -/
def Obligations.UnassignedOpcodeRaisesIllegalOpcode : Prop :=
  ∀ w : Word, opcOf w ∉ [0x01#8, 0x02#8, 0x03#8, 0x04#8, 0x05#8] →
    decode w = .rejected .illegalOpcode ∧
    (∀ (s : State) (rest : List Word), nextTurn s = .app → s.inIrq = false →
      s.agents.appStopped = false → s.agents.stream = w :: rest →
      step s = .next { s with
        fault := s.fault ||| 0x01#8
        agents := { (takeTurn s).agents with stream := rest, appStopped := true } }) ∧
    ∀ s : State, nextTurn s = .irq → s.inIrq = true → s.agents.irqStopped = false →
      s.agents.handlerWord = w →
      step s = .next { s with
        fault := s.fault ||| 0x01#8
        agents := { (takeTurn s).agents with irqStopped := true } }

/-- R74, R170: each opcode's mask and match say which fields must be zero; a word that sets one of their
bits decodes to RESERVED_NONZERO, and APP's or IRQ's presenting it sets `FAULT[1]`, stops the agent and
changes nothing else of the block. That APP's word leaves the port is the model's choice (log entry
7), as is that IRQ can be given another word than COMPLETE's (log entry 5). -/
def Obligations.ReservedBitsRaiseReservedNonzero : Prop :=
  (∀ w : Word,
    (w &&& 0xFF000000FF000000 = 0x0100000000000000 ↔ opcOf w = 0x01 ∧ rsvOf w = 0) ∧
    (w &&& 0xFFFFFFFFFF000000 = 0x0200000000000000 ↔
      opcOf w = 0x02 ∧ argOf w = 0 ∧ rsvOf w = 0) ∧
    (w &&& 0xFF000000FFFFFFFF = 0x0300000000000000 ↔
      opcOf w = 0x03 ∧ rsvOf w = 0 ∧ colOf w = 0) ∧
    (w &&& 0xFF000000FFFFFFFF = 0x0400000000000000 ↔
      opcOf w = 0x04 ∧ rsvOf w = 0 ∧ colOf w = 0) ∧
    (w &&& 0xFFFFFFFFFFFFFFFF = 0x0500000000000000 ↔
      opcOf w = 0x05 ∧ argOf w = 0 ∧ rsvOf w = 0 ∧ colOf w = 0)) ∧
  (∀ w : Word,
    (opcOf w = 0x01 → decode w = if rsvOf w = 0 then
      .command (.setpixel (argOf w).toNat (colOf w)) else .rejected .reservedNonzero) ∧
    (opcOf w = 0x02 → decode w = if argOf w = 0 ∧ rsvOf w = 0 then
      .command (.fillall (colOf w)) else .rejected .reservedNonzero) ∧
    (opcOf w = 0x03 → decode w = if rsvOf w = 0 ∧ colOf w = 0 then
      .command (.getpixel (argOf w).toNat) else .rejected .reservedNonzero) ∧
    (opcOf w = 0x04 → decode w = if rsvOf w = 0 ∧ colOf w = 0 then
      .command (.refresh (argOf w).toNat) else .rejected .reservedNonzero) ∧
    (opcOf w = 0x05 → decode w = if argOf w = 0 ∧ rsvOf w = 0 ∧ colOf w = 0 then
      .command .complete else .rejected .reservedNonzero)) ∧
  (∀ (w : Word) (s : State) (rest : List Word), decode w = .rejected .reservedNonzero →
    nextTurn s = .app → s.inIrq = false → s.agents.appStopped = false →
    s.agents.stream = w :: rest →
    step s = .next { s with
      fault := s.fault ||| 0x02#8
      agents := { (takeTurn s).agents with stream := rest, appStopped := true } }) ∧
  ∀ (w : Word) (s : State), decode w = .rejected .reservedNonzero →
    nextTurn s = .irq → s.inIrq = true → s.agents.irqStopped = false →
    s.agents.handlerWord = w →
    step s = .next { s with
      fault := s.fault ||| 0x02#8
      agents := { (takeTurn s).agents with irqStopped := true } }

/-- R81: the spec's five assembled words. -/
def Obligations.WordsOfTheSpecDecode : Prop :=
  (decode 0x010000010000FF00 = .command (.setpixel 1 0x00FF00) ∧
    encode (.setpixel 1 0x00FF00) = 0x010000010000FF00) ∧
  (decode 0x0200000000123456 = .command (.fillall 0x123456) ∧
    encode (.fillall 0x123456) = 0x0200000000123456) ∧
  (decode 0x0300000200000000 = .command (.getpixel 2) ∧
    encode (.getpixel 2) = 0x0300000200000000) ∧
  (decode 0x0400000300000000 = .command (.refresh 3) ∧
    encode (.refresh 3) = 0x0400000300000000) ∧
  (decode 0x0500000000000000 = .command .complete ∧
    encode .complete = 0x0500000000000000)

/-- R79, R80: a line of text for which the assembler writes a word is one well-formed command, and the
word decodes to it. -/
def Obligations.AssemblerWritesOnlyCommands : Prop :=
  ∀ (line : List Char) (w : Word), assemble line = some w →
    ∃ i : Instr, i.wf = true ∧ parseLine line = some i ∧ decode w = .command i

/-! ## Steps and commands -/

/-- R3, R76, R78, R176: at APP's turn in the thread context the step is the meaning of the command at
the port, at the state in which that command has left the port; at IRQ's turn in the interrupt context
it is the meaning of the handler's command. Around it the turn is taken. A REFRESH that is held is the
subject of `HeldRefreshChangesNothing`. -/
def Obligations.StepRunsTheDecodedCommand : Prop :=
  (∀ (s : State) (w : Word) (rest : List Word) (i : Instr),
    nextTurn s = .app → s.inIrq = false → s.agents.appStopped = false →
    s.agents.stream = w :: rest → decode w = .command i → commandHeld i s = false →
    step s = exec i { s with agents :=
      { s.agents with
        stream := rest
        schedule := (turnsAhead s).tail
        tick := s.agents.tick + 1 } }) ∧
  (∀ (s : State) (i : Instr),
    nextTurn s = .irq → s.inIrq = true → s.agents.irqStopped = false →
    decode s.agents.handlerWord = .command i →
    step s = exec i { s with agents :=
      { s.agents with
        schedule := (turnsAhead s).tail
        tick := s.agents.tick + 1 } })

/-- A word given to the machine from outside is what the next step runs, on the block's state as it is
(the model's interface, log entry 6). -/
def Obligations.PresentedWordIsRunNext : Prop :=
  ∀ (s : State) (w : Word) (i : Instr), decode w = .command i →
    (s.inIrq = false → commandHeld i (s.withFetchWord 64 w.toNat) = false) →
    ∃ u : State, step (s.withFetchWord 64 w.toNat) = exec i u ∧ u = { s with agents := u.agents }

/-- R76 step 3, R178, R170: a thread command in the interrupt context, and COMPLETE in the thread
context, set `FAULT[3]` and stop the issuing agent, and change nothing else. -/
def Obligations.CommandOutsideItsContextFaults : Prop :=
  (∀ (s : State) (i : Instr), i ≠ .complete → s.inIrq = true →
    (∀ n, i = .refresh n → s.agents.initDone = true) →
    exec i s = .next { s with
      fault := s.fault ||| 0x08#8, agents := { s.agents with irqStopped := true } }) ∧
  (∀ s : State, s.inIrq = false →
    exec .complete s = .next { s with
      fault := s.fault ||| 0x08#8, agents := { s.agents with appStopped := true } })

/-- R179: in the interrupt context neither APP nor the DMA agent has a step. -/
def Obligations.AppHasNoStepInInterruptContext : Prop :=
  ∀ s : State, BlockInv s → s.inIrq = true →
    (nextTurn s = .app → step s = .next (takeTurn s)) ∧
    (nextTurn s = .dma → step s = .next (takeTurn s))

/-! ## Pixel memory -/

/-- R100: in the thread context SETPIXEL completes; it writes its entry where that exists, and changes
nothing else at all. -/
def Obligations.SetpixelWritesOneEntry : Prop :=
  ∀ (s : State) (i : Nat) (c : Color), s.inIrq = false → s.pix.wf = true →
    ∃ t : State, exec (.setpixel i c) s = .next t ∧
      t = { s with pix := t.pix } ∧
      ∀ k, pixRead t k = if k = i ∧ i < s.cfg.ledCount then c else pixRead s k

/-- R104. -/
def Obligations.SetpixelOutsideTheStripIsSilent : Prop :=
  ∀ (s : State) (i : Nat) (c : Color), s.inIrq = false → s.cfg.ledCount ≤ i →
    exec (.setpixel i c) s = .next s

/-- R101: in the thread context FILLALL completes; it writes every entry of the strip, and changes
nothing else at all. -/
def Obligations.FillallWritesEveryEntry : Prop :=
  ∀ (s : State) (c : Color), s.inIrq = false → s.pix.wf = true →
    ∃ t : State, exec (.fillall c) s = .next t ∧
      t = { s with pix := t.pix } ∧
      ∀ k, pixRead t k = if k < s.cfg.ledCount then c else pixRead s k

/-- R102, R78: in the thread context GETPIXEL of an entry completes; it returns the entry in `RDATA`
and as the response, and changes nothing else. -/
def Obligations.GetpixelReturnsTheEntry : Prop :=
  ∀ (s : State) (i : Nat), s.inIrq = false → i < s.cfg.ledCount →
    exec (.getpixel i) s = .next { s with
      rdata := pixRead s i, responses := s.responses ++ [pixRead s i] }

/-- R102, R170: GETPIXEL outside the strip sets `FAULT[2]` and stops APP; there is no response and
nothing else changes. -/
def Obligations.GetpixelOutsideTheStripFaults : Prop :=
  ∀ (s : State) (i : Nat), s.inIrq = false → s.cfg.ledCount ≤ i →
    exec (.getpixel i) s = .next { s with
      fault := s.fault ||| 0x04#8, agents := { s.agents with appStopped := true } }

/-- R105 (a) to (d). In (c) the commands between are any that APP may issue but a SETPIXEL to `i` and
another FILLALL. -/
def Obligations.PixelMemoryLaws : Prop :=
  ∀ (s : State) (i : Nat) (c : Color), s.inIrq = false → s.pix.wf = true →
    (i < s.cfg.ledCount → ∃ t u : State, exec (.setpixel i c) s = .next t ∧
      exec (.getpixel i) t = .next u ∧ u.rdata = c ∧ u.responses = s.responses ++ [c]) ∧
    (s.cfg.ledCount ≤ i → ∃ t : State, exec (.setpixel i c) s = .next t ∧ t.pix = s.pix) ∧
    (i < s.cfg.ledCount → ∀ (between : List Instr) (t : State),
      (∀ j ∈ between, (∃ k d, j = .setpixel k d ∧ k ≠ i) ∨ (∃ k, j = .getpixel k) ∨
        (∃ n, j = .refresh n)) →
      execAll (.fillall c :: between) s = .next t →
      ∃ u : State, exec (.getpixel i) t = .next u ∧ u.rdata = c) ∧
    (∀ k, k ≠ i → ∃ t : State, exec (.setpixel i c) s = .next t ∧ pixRead t k = pixRead s k)

/-- R103: the three pixel commands are performed whatever the transfer engine's state, and neither read
nor write it: with other values of it they do the same, and leave those values. -/
def Obligations.PixelCommandsIgnoreTheTransferEngine : Prop :=
  ∀ (i : Instr) (s : State) (busy chEn tcPend : Bool) (stage : Memory 8) (cnt ptr : Nat),
    s.inIrq = false →
    ((∃ k c, i = .setpixel k c) ∨ (∃ c, i = .fillall c) ∨ ∃ k, i = .getpixel k) →
    commandHeld i s = false ∧
    ∃ t : State, exec i s = .next t ∧
      t.busy = s.busy ∧ t.chEn = s.chEn ∧ t.tcPend = s.tcPend ∧ t.stage = s.stage ∧
      t.dmaCnt = s.dmaCnt ∧ t.dmaPtr = s.dmaPtr ∧
      exec i { s with busy := busy, chEn := chEn, tcPend := tcPend, stage := stage,
                      dmaCnt := cnt, dmaPtr := ptr } =
        .next { t with busy := busy, chEn := chEn, tcPend := tcPend, stage := stage,
                       dmaCnt := cnt, dmaPtr := ptr }

/-- R59: a SETPIXEL or a FILLALL issued twice in a row leaves the same state as issued once. -/
def Obligations.PixelWritesAreIdempotent : Prop :=
  ∀ (i : Instr) (s t : State), s.inIrq = false → s.pix.wf = true →
    ((∃ k c, i = .setpixel k c) ∨ ∃ c, i = .fillall c) →
    exec i s = .next t → exec i t = .next t

/-- R22: between resets `PIX` is written only by SETPIXEL and FILLALL, at APP's turn. -/
def Obligations.PixHasTwoWriters : Prop :=
  ∀ s t : State, step s = .next t → (∀ cs, nextTurn s ≠ .reset cs) → t.pix ≠ s.pix →
    nextTurn s = .app ∧ s.inIrq = false ∧
    ∃ w rest, s.agents.stream = w :: rest ∧
      ((∃ k c, decode w = .command (.setpixel k c) ∧ t.pix = s.pix.write k c) ∨
        ∃ c, decode w = .command (.fillall c) ∧ t.pix = (pixFill c s).pix)

/-- R32, R78: between resets `RDATA` and the responses are written only by GETPIXEL, which appends
exactly the entry it read. -/
def Obligations.RdataIsWrittenOnlyByGetpixel : Prop :=
  ∀ s t : State, step s = .next t → (∀ cs, nextTurn s ≠ .reset cs) →
    (t.rdata = s.rdata ∧ t.responses = s.responses) ∨
    (nextTurn s = .app ∧ s.inIrq = false ∧ ∃ w rest k, s.agents.stream = w :: rest ∧
      decode w = .command (.getpixel k) ∧ k < s.cfg.ledCount ∧ t.rdata = pixRead s k ∧
      t.responses = s.responses ++ [pixRead s k])

/-! ## Encoder -/

/-- R126, R121: decoding the 24 bytes of a colour gives the bits of `{G, R, B}` from bit 23 down; `DEC`
is undefined on exactly the bytes that are no symbol. -/
def Obligations.EncodedColorDecodesToGreenRedBlue : Prop :=
  ∀ cfg : Config,
    (∀ c : Color, (encodeColor cfg.toParams c).map (decodeSymbol cfg.toParams) =
      (List.range 24).map fun k => some ((greenOf c ++ redOf c ++ blueOf c).getLsbD (23 - k))) ∧
    (∀ b : Byte, decodeSymbol cfg.toParams b = none ↔ b ≠ cfg.symbolOne ∧ b ≠ cfg.symbolZero)

/-- R126: `ENCODE` is injective, a frame determines its count and its pixels, and the first idle byte
is the end of the symbols. -/
def Obligations.FrameDeterminesItsPixels : Prop :=
  ∀ cfg : Config,
    (∀ c d : Color, encodeColor cfg.toParams c = encodeColor cfg.toParams d → c = d) ∧
    (∀ (P Q : Nat → Color) (c d : Nat), frame cfg.toParams P c = frame cfg.toParams Q d →
      c = d ∧ ∀ i, i < c → P i = Q i) ∧
    (∀ (P : Nat → Color) (c : Nat),
      (frame cfg.toParams P c).findIdx? (· == cfg.idleByte) = some (24 * c))

/-- R124: bit `b` of the green, red and blue channel of LED `i` stands at
`i*24 + channelOffset + (7-b)`, with channel offsets 0, 8 and 16. -/
def Obligations.FramePositionFormula : Prop :=
  ∀ (p : Params) (P : Nat → Color) (c i b : Nat), i < c → b < 8 →
    (frame p P c)[i * 24 + 0 + (7 - b)]? = some (symbolOf p ((greenOf (P i)).getLsbD b)) ∧
    (frame p P c)[i * 24 + 8 + (7 - b)]? = some (symbolOf p ((redOf (P i)).getLsbD b)) ∧
    (frame p P c)[i * 24 + 16 + (7 - b)]? = some (symbolOf p ((blueOf (P i)).getLsbD b)) ∧
    ∀ w, w < 3 → (24 * i + 8 * w + (7 - b)) / 24 = i ∧
      (24 * i + 8 * w + (7 - b)) % 24 / 8 = w ∧ 7 - (24 * i + 8 * w + (7 - b)) % 8 = b

/-- R123, R60: a frame is the encodings of its LEDs in strip order, then `RESET_BYTES` idle bytes. -/
def Obligations.FrameIsEncodingsThenGap : Prop :=
  ∀ (p : Params) (P : Nat → Color) (c : Nat),
    frame p P c = (List.range c).flatMap (fun i => encodeColor p (P i)) ++
      List.replicate p.resetBytes p.idleByte

/-- R128: a frame reads only the entries below its count, and writing it leaves `PIX` alone. -/
def Obligations.FrameReadsOnlyItsPixels : Prop :=
  (∀ (p : Params) (P Q : Nat → Color) (c : Nat), (∀ i, i < c → P i = Q i) →
    frame p P c = frame p Q c) ∧
  (∀ (s t : State) (n : Nat), exec (.refresh n) s = .next t → t.pix = s.pix)

/-- R129: the spec's worked encodings, in every configuration. -/
def Obligations.WorkedEncodings : Prop :=
  ∀ (p : Params) (P : Nat → Color),
    encodeColor p 0xFF0000 = List.replicate 8 p.symbolZero ++ List.replicate 8 p.symbolOne ++
      List.replicate 8 p.symbolZero ∧
    encodeColor p 0x00FF00 = List.replicate 8 p.symbolOne ++ List.replicate 16 p.symbolZero ∧
    encodeColor p 0x0000FF = List.replicate 16 p.symbolZero ++ List.replicate 8 p.symbolOne ∧
    frame p P 0 = List.replicate p.resetBytes p.idleByte

/-- R127: two REFRESHes with the same effective count over the same `PIX` write the same bytes. -/
def Obligations.SamePixelsGiveTheSameFrame : Prop :=
  ∀ (s s' t t' : State) (n n' c : Nat), s.cfg = s'.cfg → s.pix = s'.pix →
    s.stage.wf = true → s'.stage.wf = true →
    effectiveCount s.cfg.toParams n = some c → effectiveCount s.cfg.toParams n' = some c →
    s.inIrq = false → s'.inIrq = false → s.busy = false → s'.busy = false →
    exec (.refresh n) s = .next t → exec (.refresh n') s' = .next t' →
    ∀ j, j < transferLength s.cfg.toParams c → stageRead t j = stageRead t' j

/-- R56: the line levels of a sequence of bytes. -/
def Obligations.LineBitsFollowTheShiftOrder : Prop :=
  ∀ (p : Params) (b : Byte) (bytes : List Byte),
    lineBits p [] = [] ∧
    lineBits p (b :: bytes) =
      (if p.shiftOrder = .msbFirst then
        [b.getLsbD 7, b.getLsbD 6, b.getLsbD 5, b.getLsbD 4, b.getLsbD 3, b.getLsbD 2,
          b.getLsbD 1, b.getLsbD 0]
      else
        [b.getLsbD 0, b.getLsbD 1, b.getLsbD 2, b.getLsbD 3, b.getLsbD 4, b.getLsbD 5,
          b.getLsbD 6, b.getLsbD 7]) ++ lineBits p bytes

/-- R7 to R11, R15: what the checks say of every configuration the machine can stand in. -/
def Obligations.ConfigurationIsWellFormed : Prop :=
  ∀ s : State,
    1 ≤ s.cfg.ledCount ∧ s.cfg.ledCount ≤ 2 ^ 24 - 1 ∧ 1 ≤ s.cfg.resetBytes ∧
    s.cfg.symbolZero ≠ s.cfg.symbolOne ∧
    (∃ h0 h1, 1 ≤ h0 ∧ h0 < h1 ∧ h1 ≤ 7 ∧
      shiftBits s.cfg.shiftOrder s.cfg.symbolZero =
        List.replicate h0 true ++ List.replicate (8 - h0) false ∧
      shiftBits s.cfg.shiftOrder s.cfg.symbolOne =
        List.replicate h1 true ++ List.replicate (8 - h1) false) ∧
    s.cfg.idleByte ≠ s.cfg.symbolZero ∧ s.cfg.idleByte ≠ s.cfg.symbolOne ∧
    s.cfg.ledCount * 24 + s.cfg.resetBytes ≤ 2 ^ s.cfg.lenWidth - 1

/-! ## Transfer arbiter -/

/-- R140, R125, R145: in the thread context, after initialisation and with `BUSY = 0`, a REFRESH that
is not rejected completes: it takes `BUSY`, enables the channel for `L(c)` bytes from byte 0 on, writes
the frame into the first `L(c)` bytes of `STAGE` and changes nothing else, `WIRE` included. -/
def Obligations.RefreshStartsTheTransfer : Prop :=
  ∀ (s : State) (n : Nat), s.inIrq = false → s.agents.initDone = true → s.busy = false →
    s.stage.wf = true → (n ≤ s.cfg.ledCount ∨ s.cfg.oversize = .clamp) →
    ∃ (t : State) (c : Nat), exec (.refresh n) s = .next t ∧
      c = (if n ≤ s.cfg.ledCount then n else s.cfg.ledCount) ∧
      t = { s with
        busy := true, chEn := true, dmaCnt := c * 24 + s.cfg.resetBytes, dmaPtr := 0,
        stage := t.stage } ∧
      ∀ j, stageRead t j =
        if j < c * 24 + s.cfg.resetBytes then frameByte s.cfg.toParams (pixRead s) c j
        else stageRead s j

/-- R143: an oversized count is clamped to `N` or rejected without any effect, by policy; either way
nothing past `L_MAX` is written and the counter does not overflow. -/
def Obligations.OversizedCountFollowsThePolicy : Prop :=
  ∀ (s : State) (n : Nat), s.inIrq = false → s.agents.initDone = true →
    s.cfg.ledCount < n →
    (s.cfg.oversize = .clamp → exec (.refresh n) s = exec (.refresh s.cfg.ledCount) s ∧
      commandHeld (.refresh n) s = commandHeld (.refresh s.cfg.ledCount) s) ∧
    (s.cfg.oversize = .reject → exec (.refresh n) s = .next s ∧
      commandHeld (.refresh n) s = false) ∧
    (s.stage.wf = true → s.dmaCnt < 2 ^ s.cfg.lenWidth →
      ∀ t : State, exec (.refresh n) s = .next t → t.dmaCnt < 2 ^ s.cfg.lenWidth ∧
        ∀ j, stageLength s.cfg.toParams ≤ j → stageRead t j = stageRead s j)

/-- R141, R33: while `BUSY = 1` a REFRESH that is not rejected is held: APP's turn changes no state and
leaves the command at the port. -/
def Obligations.HeldRefreshChangesNothing : Prop :=
  ∀ (s : State) (w : Word) (rest : List Word) (n c : Nat), nextTurn s = .app →
    s.agents.stream = w :: rest → decode w = .command (.refresh n) →
    effectiveCount s.cfg.toParams n = some c → s.agents.initDone = true → s.busy = true →
    step s = .next (takeTurn s) ∧
    (takeTurn s).agents.stream = w :: rest ∧
    { takeTurn s with agents := s.agents } = s

/-- R155, R210: no step but reset writes `STAGE` while `BUSY = 1`, and only COMPLETE ends that. -/
def Obligations.StagingIsNotWrittenWhileBusy : Prop :=
  ∀ s t : State, s.busy = true → step s = .next t → (∀ cs, nextTurn s ≠ .reset cs) →
    t.stage = s.stage ∧
    (t.busy = false → nextTurn s = .irq ∧ s.inIrq = true ∧
      decode s.agents.handlerWord = .command .complete)

/-- R24: between resets `BUSY` is set only by REFRESH, at APP's turn, and cleared only by COMPLETE, at
IRQ's. -/
def Obligations.BusyHasTwoWriters : Prop :=
  ∀ s t : State, step s = .next t → (∀ cs, nextTurn s ≠ .reset cs) → t.busy ≠ s.busy →
    (t.busy = true ∧ nextTurn s = .app ∧ s.inIrq = false ∧
      ∃ w rest n, s.agents.stream = w :: rest ∧ decode w = .command (.refresh n)) ∨
    (t.busy = false ∧ nextTurn s = .irq ∧ s.inIrq = true ∧ t.inIrq = false ∧
      decode s.agents.handlerWord = .command .complete)

/-- R206: a REFRESH presented without `INIT_DONE` is refused by name. -/
def Obligations.RefreshBeforeInitIsRefused : Prop :=
  ∀ (s : State) (n : Nat), s.agents.initDone = false →
    exec (.refresh n) s = .refused .refreshBeforeInit

/-- R142: the atomic REFRESH is the source's five actions in their order, and in no state between them
has the DMA agent, ENTRY or IRQ a step. -/
def Obligations.NoAgentStepsInsideARefresh : Prop :=
  ∀ (s : State) (n c : Nat), BlockInv s → s.inIrq = false → s.agents.initDone = true →
    s.busy = false → effectiveCount s.cfg.toParams n = some c →
    exec (.refresh n) s =
      .next (enableChannel (writeFrame c (programLength c (disableChannel (acquireBusy s))))) ∧
    ∀ u ∈ [acquireBusy s, disableChannel (acquireBusy s),
        programLength c (disableChannel (acquireBusy s)),
        writeFrame c (programLength c (disableChannel (acquireBusy s)))],
      dmaEnabled u = false ∧ entryEnabled u = false ∧ irqMayIssue u = false

/-- R147, R148: in the interrupt context with `BUSY = 1`, COMPLETE completes without ever holding; it
clears `BUSY` and `IN_IRQ` and changes nothing else. -/
def Obligations.CompleteReleasesAndReturns : Prop :=
  ∀ s : State, s.inIrq = true → s.busy = true →
    commandHeld .complete s = false ∧
    exec .complete s = .next { s with busy := false, inIrq := false }

/-- R147, R170: COMPLETE with nothing to release sets `FAULT[4]` and stops IRQ; nothing else changes. -/
def Obligations.SpuriousCompleteFaults : Prop :=
  ∀ s : State, s.inIrq = true → s.busy = false →
    exec .complete s = .next { s with
      fault := s.fault ||| 0x10#8, agents := { s.agents with irqStopped := true } }

/-- R154: after a COMPLETE `BUSY = 0`, and a REFRESH presented next performs at APP's next step. -/
def Obligations.RefreshAfterCompletePerformsAtOnce : Prop :=
  ∀ (s t : State) (w : Word) (rest : List Word) (n c : Nat), s.inIrq = true → s.busy = true →
    s.stage.wf = true → s.agents.appStopped = false → s.agents.initDone = true →
    s.agents.stream = w :: rest → decode w = .command (.refresh n) →
    effectiveCount s.cfg.toParams n = some c → nextTurn s = .app →
    exec .complete s = .next t →
    t.busy = false ∧ commandHeld (.refresh n) t = false ∧
    ∃ u : State, step t = .next u ∧ u.busy = true ∧ u.chEn = true ∧ u.dmaPtr = 0 ∧
      u.dmaCnt = c * 24 + s.cfg.resetBytes ∧ u.wire = s.wire ∧ u.agents.stream = rest ∧
      ∀ j, j < c * 24 + s.cfg.resetBytes →
        stageRead u j = frameByte s.cfg.toParams (pixRead s) c j

/-! ## Agents -/

/-- R150: the DMA agent has a step exactly when `CH_EN = 1` and `DMA_CNT > 0`; the byte it reads is then
in range; the step moves that byte and sets `TC_PEND` with the last one, and changes nothing else. -/
def Obligations.DmaStepMovesOneByte : Prop :=
  ∀ s : State, BlockInv s → nextTurn s = .dma →
    (s.chEn = true → 0 < s.dmaCnt → s.dmaPtr < stageLength s.cfg.toParams) ∧
    step s = .next (if s.chEn = true ∧ 0 < s.dmaCnt then
        { takeTurn s with
          wire := s.wire ++ [stageRead s s.dmaPtr]
          dmaPtr := s.dmaPtr + 1
          dmaCnt := s.dmaCnt - 1
          tcPend := if s.dmaCnt = 1 then true else s.tcPend }
      else takeTurn s)

/-- R151: the step that sets `TC_PEND` leaves the channel enabled with nothing to move and the whole
frame sent, and the DMA agent without a step. -/
def Obligations.NotificationEndsTheMoving : Prop :=
  ∀ s t : State, BlockInv s → step s = .next t → s.tcPend = false → t.tcPend = true →
    t.chEn = true ∧ t.dmaCnt = 0 ∧ dmaEnabled t = false ∧
    ∃ c, c ≤ t.cfg.ledCount ∧ t.dmaPtr = transferLength t.cfg.toParams c

/-- R175: ENTRY has a step exactly when `TC_PEND = 1` and `IN_IRQ = 0`; it clears the one, sets the
other and changes nothing else. -/
def Obligations.InterruptEntryTakesTheNotification : Prop :=
  ∀ s : State, nextTurn s = .entry →
    step s = .next (if s.tcPend = true ∧ s.inIrq = false then
        { takeTurn s with tcPend := false, inIrq := true }
      else takeTurn s)

/-- R176: IRQ has no step in the thread context, and in the interrupt context its one step performs the
handler's COMPLETE. -/
def Obligations.IrqStepPerformsComplete : Prop :=
  ∀ s : State, BlockInv s → HandlerReady s → nextTurn s = .irq →
    step s = .next (if s.inIrq = true then { takeTurn s with busy := false, inIrq := false }
      else takeTurn s)

/-- R39, R188: while a transfer is in flight exactly one of the DMA agent, ENTRY and IRQ has a step.
Every run gives each of the three its turn again and again. So on every run, whatever the other turns
are, a transfer in flight completes after exactly the bytes that were left, and a REFRESH at the port
is then performed. That an agent's chance to step is a turn is the model's (log entry 2), and so is
that APP has turns while a REFRESH waits (log entry 14). -/
def Obligations.OneAgentCarriesTheTransfer : Prop :=
  (∀ s : State, BlockInv s → s.busy = true → s.agents.irqStopped = false →
    (dmaEnabled s = true ∧ entryEnabled s = false ∧ irqMayIssue s = false) ∨
    (dmaEnabled s = false ∧ entryEnabled s = true ∧ irqMayIssue s = false) ∨
    (dmaEnabled s = false ∧ entryEnabled s = false ∧ irqMayIssue s = true)) ∧
  (∀ (s : State) (a : Turn), a = .dma ∨ a = .entry ∨ a = .irq →
    ∃ n, (∃ t, run n s = .next t ∧ nextTurn t = a) ∨ ∀ t, run n s ≠ .next t) ∧
  (∀ s : State, BlockInv s → HandlerReady s → s.agents.initDone = true → s.busy = true →
    EventuallyOrReset (fun t =>
      t.busy = false ∧ t.tcPend = false ∧ t.inIrq = false ∧ t.dmaCnt = 0 ∧
      t.dmaPtr = s.dmaPtr + s.dmaCnt ∧
      t.wire = s.wire ++ (List.range s.dmaCnt).map fun j => stageRead s (s.dmaPtr + j)) s) ∧
  ∀ (s : State) (w : Word) (rest : List Word) (n c : Nat), BlockInv s → HandlerReady s →
    s.agents.initDone = true → s.agents.appStopped = false → s.agents.stream = w :: rest →
    decode w = .command (.refresh n) → effectiveCount s.cfg.toParams n = some c →
    EventuallyOrReset (fun t =>
      t.busy = false ∧ ∃ u : State, step t = .next u ∧ u.busy = true ∧ u.chEn = true ∧
        u.dmaCnt = c * 24 + s.cfg.resetBytes ∧ u.dmaPtr = 0 ∧ u.wire = t.wire ∧
        u.agents.stream = rest ∧ ∀ j, j < c * 24 + s.cfg.resetBytes →
          stageRead u j = frameByte s.cfg.toParams (pixRead s) c j) s

/-- R146, R188: a transfer with `DMA_CNT` bytes left completes after that many DMA steps, an entry and
the handler, and sends exactly the bytes of `STAGE` that were left, in order. The schedule is a
premise and the model's way to name an order of steps (log entries 2 and 14);
`OneAgentCarriesTheTransfer` is about every order. -/
def Obligations.TransferRunsToCompletion : Prop :=
  ∀ (s : State) (rest : List Turn), BlockInv s → HandlerReady s → 0 < s.dmaCnt →
    s.agents.schedule = List.replicate s.dmaCnt .dma ++ .entry :: .irq :: rest →
    run (s.dmaCnt + 2) s = .next { s with
      busy := false
      dmaCnt := 0
      dmaPtr := s.dmaPtr + s.dmaCnt
      wire := s.wire ++ (List.range s.dmaCnt).map fun j => stageRead s (s.dmaPtr + j)
      agents := { s.agents with schedule := rest, tick := s.agents.tick + (s.dmaCnt + 2) } }

/-- R144: a REFRESH of count 0 sends only the reset gap, and its transfer completes like any other. The
schedule is a premise and the model's way to name an order of steps (log entries 2 and 14), and that
the word leaves the port in the step that performs it is log entry 7. -/
def Obligations.EmptyRefreshSendsOnlyTheGap : Prop :=
  ∀ (s : State) (more : List Word) (rest : List Turn), BlockInv s → HandlerReady s →
    s.inIrq = false → s.busy = false → s.agents.appStopped = false →
    s.agents.initDone = true → s.agents.stream = encode (.refresh 0) :: more →
    s.agents.schedule =
      .app :: (List.replicate s.cfg.resetBytes .dma ++ .entry :: .irq :: rest) →
    ∃ u t : State, step s = .next u ∧ u.busy = true ∧ u.dmaCnt = s.cfg.resetBytes ∧
      u.wire = s.wire ∧
      (∀ j, stageRead u j = if j < s.cfg.resetBytes then s.cfg.idleByte else stageRead s j) ∧
      run (1 + s.cfg.resetBytes + 2) s = .next t ∧
      t.wire = s.wire ++ List.replicate s.cfg.resetBytes s.cfg.idleByte ∧
      t.busy = false ∧ t.tcPend = false ∧ t.inIrq = false ∧ t.dmaCnt = 0 ∧
      t.agents.stream = more

/-- R170: an agent that has raised a fault has no further step until reset, and the DMA agent and ENTRY
keep theirs, whatever is recorded. -/
def Obligations.FaultStopsOnlyItsIssuer : Prop :=
  (∀ s t : State, step s = .next t → (∀ cs, nextTurn s ≠ .reset cs) →
    (s.agents.appStopped = true →
      t.agents.appStopped = true ∧ (nextTurn s = .app → t = takeTurn s)) ∧
    (s.agents.irqStopped = true →
      t.agents.irqStopped = true ∧ (nextTurn s = .irq → t = takeTurn s))) ∧
  (∀ (s t : State) (f : BitVec 8) (app irq : Bool), (nextTurn s = .dma ∨ nextTurn s = .entry) →
    step s = .next t →
    step { s with fault := f, agents := { s.agents with appStopped := app, irqStopped := irq } } =
      .next { t with
        fault := f, agents := { t.agents with appStopped := app, irqStopped := irq } })

/-- R30, R170: between resets no step clears a bit of `FAULT`, and a step that records one stops an
agent. -/
def Obligations.FaultBitsAreSticky : Prop :=
  ∀ s t : State, step s = .next t → (∀ cs, nextTurn s ≠ .reset cs) →
    (∀ b, s.fault.getLsbD b = true → t.fault.getLsbD b = true) ∧
    (t.fault ≠ s.fault → t.agents.appStopped = true ∨ t.agents.irqStopped = true)

/-- R170: that `FAULT` is nonzero exactly when an agent has stopped is kept by every step. -/
def Obligations.StoppedAgentMeansRecordedFault : Prop :=
  ∀ s t : State, (s.fault ≠ 0 ↔ s.agents.appStopped = true ∨ s.agents.irqStopped = true) →
    step s = .next t → (t.fault ≠ 0 ↔ t.agents.appStopped = true ∨ t.agents.irqStopped = true)

/-- R31: between resets only the DMA agent appends to `WIRE`, one byte a step, and nothing removes. -/
def Obligations.WireGrowsOnlyByDmaBytes : Prop :=
  ∀ s t : State, step s = .next t → (∀ cs, nextTurn s ≠ .reset cs) →
    t.wire = s.wire ∨
    (nextTurn s = .dma ∧ s.chEn = true ∧ 0 < s.dmaCnt ∧
      t.wire = s.wire ++ [stageRead s s.dmaPtr])

/-! ## The whole machine -/

/-- R200: the values the spec gives for the state after reset, for `State.reset`. Two clauses are the
model's: that the responses are empty (log entry 15), and that no agent has a step, which rests on the
empty command stream (log entry 6). The configuration, the array contents and `RDATA` are the model's
choice too (log entries 1 and 4) and no part of this. -/
def Obligations.ResetStateIsTheSpecs : Prop :=
  State.reset.busy = false ∧ State.reset.chEn = false ∧ State.reset.dmaCnt = 0 ∧
  State.reset.dmaPtr = 0 ∧ State.reset.tcPend = false ∧ State.reset.inIrq = false ∧
  State.reset.fault = 0x00 ∧ State.reset.wire = [] ∧ State.reset.responses = [] ∧
  quiescent State.reset = true

/-- R200, R201, R203: the reset input, from any state at all: every control and status element at its
reset value, the observation begun again, the arrays zero where `RESET_ZERO_FILL` says so. -/
def Obligations.ResetInputSetsEveryElement : Prop :=
  ∀ (s : State) (cs : List Word), nextTurn s = .reset cs →
    ∃ t : State, step s = .next t ∧
      t.busy = false ∧ t.chEn = false ∧ t.dmaCnt = 0 ∧ t.dmaPtr = 0 ∧ t.tcPend = false ∧
      t.inIrq = false ∧ t.fault = 0x00 ∧ t.wire = [] ∧ t.responses = [] ∧ t.cfg = s.cfg ∧
      (s.cfg.resetZeroFill = true → ∀ k, pixRead t k = 0 ∧ stageRead t k = 0)

/-- R35 to R38: the invariant holds of `State.reset`, and a reset input establishes it from any state. -/
def Obligations.ResetSatisfiesTheInvariant : Prop :=
  BlockInv State.reset ∧
  ∀ (s : State) (cs : List Word), nextTurn s = .reset cs →
    ∃ t : State, step s = .next t ∧ BlockInv t

/-- R35 to R39, R22, R23, R30: every step of every agent keeps the invariant. -/
def Obligations.StepKeepsTheInvariant : Prop :=
  ∀ s t : State, BlockInv s → step s = .next t → BlockInv t

/-- R150, R206: from a state that meets the invariant, after initialisation, the machine never stops. -/
def Obligations.StepAlwaysAnswersANextState : Prop :=
  ∀ s : State, BlockInv s →
    (∀ r, step s ≠ .fault r) ∧
    (s.agents.initDone = true → ∃ t : State, step s = .next t)

/-- R19, R178: where no agent can step, a turn of an agent changes nothing; if the invariant holds and
the handler can run, no transfer is then in flight. -/
def Obligations.QuiescentMachineIsAtRest : Prop :=
  ∀ s : State, quiescent s = true →
    (nextTurn s = .app ∨ nextTurn s = .irq ∨ nextTurn s = .entry ∨ nextTurn s = .dma →
      step s = .next (takeTurn s)) ∧
    (BlockInv s → HandlerReady s →
      s.busy = false ∧ s.tcPend = false ∧ s.inIrq = false ∧ s.dmaCnt = 0)

/-- R15, R22, R23: no step changes the configuration. -/
def Obligations.ConfigurationIsFixed : Prop :=
  ∀ s t : State, step s = .next t → t.cfg = s.cfg

/-- R152: the wire is the frames in order, the latest up to `DMA_PTR`: at reset, and after every step
from a state where it is so. -/
def Obligations.WireIsTheFramesInOrder : Prop :=
  WireIsFrames [] State.reset ∧
  ∀ (frames : List (List Byte)) (s t : State), BlockInv s → WireIsFrames frames s →
    step s = .next t → WireIsFrames (framesAfter frames s) t

/-- The model's canonical form of an array (log entry 4): arrays of equal contents are equal. -/
def Obligations.CanonicalMemoryIsExtensional : Prop :=
  ∀ (w : Nat) (m n : Memory w), m.wf = true → n.wf = true → (∀ k, m.read k = n.read k) → m = n
end

