-- ==== Sys2Proof/Laws/Decode.lean ====
section
/-! SUPPORT. The fields of a command word: what each is in a packed word, that a word is its four
fields, and what a row's mask asks of them. -/

namespace Sys2Proof

theorem getLsbD_packWord (opc : BitVec 8) (arg col : BitVec 24) (i : Nat) :
    (packWord opc arg col).getLsbD i =
      if i < 24 then col.getLsbD i
      else if i < 32 then false
      else if i < 56 then arg.getLsbD (i - 32)
      else opc.getLsbD (i - 56) := by
  unfold packWord
  rw [BitVec.getLsbD_append, BitVec.getLsbD_append, BitVec.getLsbD_append]
  by_cases h1 : i < 24
  · simp [h1]
  · by_cases h2 : i < 32
    · have : i - 24 < 8 := by omega
      simp [h1, h2, this]
    · have h3 : ¬ i - 24 < 8 := by omega
      by_cases h4 : i < 56
      · have e : i - 24 - 8 = i - 32 := by omega
        have : i - 32 < 24 := by omega
        simp [h1, h2, h3, h4, this, e]
      · have : ¬ i - 24 - 8 < 24 := by omega
        have e : i - 24 - 8 - 24 = i - 56 := by omega
        simp [h1, h2, h3, h4, this, e]

theorem opcOf_packWord (opc : BitVec 8) (arg col : BitVec 24) :
    opcOf (packWord opc arg col) = opc := by
  refine BitVec.eq_of_getLsbD_eq fun i hi => ?_
  rw [opcOf, BitVec.getLsbD_extractLsb', getLsbD_packWord, if_neg (by omega), if_neg (by omega),
    if_neg (by omega)]
  simp [hi]

theorem argOf_packWord (opc : BitVec 8) (arg col : BitVec 24) :
    argOf (packWord opc arg col) = arg := by
  refine BitVec.eq_of_getLsbD_eq fun i hi => ?_
  rw [argOf, BitVec.getLsbD_extractLsb', getLsbD_packWord, if_neg (by omega), if_neg (by omega),
    if_pos (by omega)]
  simp [hi]

theorem rsvOf_packWord (opc : BitVec 8) (arg col : BitVec 24) :
    rsvOf (packWord opc arg col) = 0 := by
  refine BitVec.eq_of_getLsbD_eq fun i hi => ?_
  rw [rsvOf, BitVec.getLsbD_extractLsb', getLsbD_packWord, if_neg (by omega), if_pos (by omega)]
  simp

theorem colOf_packWord (opc : BitVec 8) (arg col : BitVec 24) :
    colOf (packWord opc arg col) = col := by
  refine BitVec.eq_of_getLsbD_eq fun i hi => ?_
  rw [colOf, BitVec.getLsbD_extractLsb', getLsbD_packWord, if_pos (by omega)]
  simp [hi]

/-- Two words with the same four fields are equal. -/
theorem word_ext {v w : Word} (ho : opcOf v = opcOf w) (ha : argOf v = argOf w)
    (hr : rsvOf v = rsvOf w) (hc : colOf v = colOf w) : v = w := by
  refine BitVec.eq_of_getLsbD_eq fun i hi => ?_
  have ho := congrArg (·.getLsbD (i - 56)) ho
  have ha := congrArg (·.getLsbD (i - 32)) ha
  have hr := congrArg (·.getLsbD (i - 24)) hr
  have hc := congrArg (·.getLsbD i) hc
  simp only [opcOf, argOf, rsvOf, colOf, BitVec.getLsbD_extractLsb', Nat.zero_add] at ho ha hr hc
  by_cases h1 : i < 24
  · simpa [h1] using hc
  · by_cases h2 : i < 32
    · rw [Nat.add_sub_cancel' (by omega)] at hr
      simpa [show i - 24 < 8 by omega] using hr
    · by_cases h3 : i < 56
      · rw [Nat.add_sub_cancel' (by omega)] at ha
        simpa [show i - 32 < 24 by omega] using ha
      · rw [Nat.add_sub_cancel' (by omega)] at ho
        simpa [show i - 56 < 8 by omega] using ho

/-- A word whose reserved field is zero is the packed word of its other fields. -/
theorem packWord_fields {w : Word} (h : rsvOf w = 0) :
    packWord (opcOf w) (argOf w) (colOf w) = w :=
  word_ext (opcOf_packWord _ _ _) (argOf_packWord _ _ _) ((rsvOf_packWord _ _ _).trans h.symm)
    (colOf_packWord _ _ _)

/-- The fields of a masked word are the masked fields. -/
theorem fields_and (w m : Word) :
    opcOf (w &&& m) = opcOf w &&& opcOf m ∧ argOf (w &&& m) = argOf w &&& argOf m ∧
    rsvOf (w &&& m) = rsvOf w &&& rsvOf m ∧ colOf (w &&& m) = colOf w &&& colOf m := by
  refine ⟨?_, ?_, ?_, ?_⟩ <;>
    simp only [opcOf, argOf, rsvOf, colOf] <;> exact BitVec.extractLsb'_and

/-- A row's mask asks something of each field. -/
theorem matches_iff (r : Row) (w : Word) : r.matches w = true ↔
    opcOf w &&& opcOf r.mask = opcOf r.fixed ∧ argOf w &&& argOf r.mask = argOf r.fixed ∧
    rsvOf w &&& rsvOf r.mask = rsvOf r.fixed ∧ colOf w &&& colOf r.mask = colOf r.fixed := by
  obtain ⟨ho, ha, hr, hc⟩ := fields_and w r.mask
  rw [← ho, ← ha, ← hr, ← hc, Row.matches, beq_iff_eq]
  exact ⟨fun h => by simp [h], fun h => word_ext h.1 h.2.1 h.2.2.1 h.2.2.2⟩

theorem and_allOnes8 (b : BitVec 8) : b &&& 255#8 = b := BitVec.and_allOnes

theorem and_allOnes24 (b : BitVec 24) : b &&& 16777215#24 = b := BitVec.and_allOnes

theorem matches_setpixel (w : Word) :
    rowSetpixel.matches w = true ↔ opcOf w = 0x01 ∧ rsvOf w = 0 := by
  rw [matches_iff]
  simp [rowSetpixel, opcOf, argOf, rsvOf, colOf, and_allOnes8]

theorem matches_fillall (w : Word) :
    rowFillall.matches w = true ↔ opcOf w = 0x02 ∧ argOf w = 0 ∧ rsvOf w = 0 := by
  rw [matches_iff]
  simp [rowFillall, opcOf, argOf, rsvOf, colOf, and_allOnes8, and_allOnes24]

theorem matches_getpixel (w : Word) :
    rowGetpixel.matches w = true ↔ opcOf w = 0x03 ∧ rsvOf w = 0 ∧ colOf w = 0 := by
  rw [matches_iff]
  simp [rowGetpixel, opcOf, argOf, rsvOf, colOf, and_allOnes8, and_allOnes24]

theorem matches_refresh (w : Word) :
    rowRefresh.matches w = true ↔ opcOf w = 0x04 ∧ rsvOf w = 0 ∧ colOf w = 0 := by
  rw [matches_iff]
  simp [rowRefresh, opcOf, argOf, rsvOf, colOf, and_allOnes8, and_allOnes24]

theorem matches_complete (w : Word) : rowComplete.matches w = true ↔
    opcOf w = 0x05 ∧ argOf w = 0 ∧ rsvOf w = 0 ∧ colOf w = 0 := by
  rw [matches_iff]
  simp [rowComplete, opcOf, argOf, rsvOf, colOf, and_allOnes8, and_allOnes24]

end Sys2Proof
end

