-- ==== Sys2Proof/Laws/Memory.lean ====
section
/-! SUPPORT. The arrays: a read after a write, and the canonical form kept by every operation. -/

namespace Sys2Proof.Machine.Memory

variable {w : Nat}

theorem wfFrom_mono {lo hi : Nat} {m : Memory w} (hle : lo ≤ hi) (h : Memory.wfFrom hi m = true) :
    Memory.wfFrom lo m = true := by
  cases m with
  | nil => rfl
  | cons cell rest =>
    simp only [Memory.wfFrom, Bool.and_eq_true, decide_eq_true_eq] at h ⊢
    exact ⟨⟨le_trans hle h.1.1, h.1.2⟩, h.2⟩

theorem read_below {lo : Nat} {m : Memory w} (h : Memory.wfFrom lo m = true) {k : Nat}
    (hk : k < lo) : m.read k = unlisted w := by
  induction m generalizing lo with
  | nil => rfl
  | cons cell rest ih =>
    simp only [Memory.wfFrom, Bool.and_eq_true, decide_eq_true_eq] at h
    rw [Memory.read, if_neg (by omega)]
    exact ih h.2 (by omega)

theorem wfFrom_put {lo k : Nat} {v : BitVec w} {m : Memory w} (hlo : lo ≤ k)
    (h : Memory.wfFrom (k + 1) m = true) : Memory.wfFrom lo (Memory.put k v m) = true := by
  unfold Memory.put
  split
  · exact wfFrom_mono (by omega) h
  · simp_all [Memory.wfFrom]

theorem read_put {k : Nat} {v : BitVec w} {m : Memory w} (h : Memory.wfFrom (k + 1) m = true)
    (j : Nat) : (Memory.put k v m).read j = if j = k then v else m.read j := by
  unfold Memory.put
  split
  · split
    · subst j; rw [read_below h (by omega)]; symm; assumption
    · rfl
  · rw [Memory.read]

theorem wfFrom_write {lo k : Nat} {v : BitVec w} {m : Memory w} (hlo : lo ≤ k)
    (h : Memory.wfFrom lo m = true) : Memory.wfFrom lo (m.write k v) = true := by
  induction m generalizing lo with
  | nil => exact wfFrom_put hlo rfl
  | cons cell rest ih =>
    obtain ⟨a, u⟩ := cell
    have hc := h
    simp only [Memory.wfFrom, Bool.and_eq_true, decide_eq_true_eq] at h
    simp only [Memory.write]
    split
    · refine wfFrom_put hlo ?_
      simp only [Memory.wfFrom, Bool.and_eq_true, decide_eq_true_eq]
      exact ⟨⟨by omega, h.1.2⟩, h.2⟩
    · split
      · subst k; exact wfFrom_put hlo h.2
      · simp only [Memory.wfFrom, Bool.and_eq_true, decide_eq_true_eq]
        exact ⟨h.1, ih (by omega) h.2⟩

/-- A write keeps the canonical form. -/
theorem wf_write {k : Nat} {v : BitVec w} {m : Memory w} (h : m.wf = true) :
    (m.write k v).wf = true :=
  wfFrom_write (Nat.zero_le k) h

theorem read_write_from {lo k : Nat} {v : BitVec w} {m : Memory w}
    (h : Memory.wfFrom lo m = true) (j : Nat) :
    (m.write k v).read j = if j = k then v else m.read j := by
  induction m generalizing lo with
  | nil => exact read_put rfl j
  | cons cell rest ih =>
    obtain ⟨a, u⟩ := cell
    have hc := h
    simp only [Memory.wfFrom, Bool.and_eq_true, decide_eq_true_eq] at h
    simp only [Memory.write]
    split
    · refine read_put ?_ j
      simp only [Memory.wfFrom, Bool.and_eq_true, decide_eq_true_eq]
      exact ⟨⟨by omega, h.1.2⟩, h.2⟩
    · split
      · subst k
        rw [read_put h.2, Memory.read]
        split <;> rfl
      · rw [Memory.read, Memory.read, ih h.2]
        split
        · rw [if_neg (by omega)]
        · rfl

/-- A read after a write: the entry written holds the value, every other entry is unchanged. -/
theorem read_write {k : Nat} {v : BitVec w} {m : Memory w} (h : m.wf = true) (j : Nat) :
    (m.write k v).read j = if j = k then v else m.read j :=
  read_write_from h j

/-- A run of writes keeps the canonical form. -/
theorem wf_writeList {k : Nat} {vs : List (BitVec w)} {m : Memory w} (h : m.wf = true) :
    (m.writeList k vs).wf = true := by
  induction vs generalizing m k with
  | nil => exact h
  | cons v rest ih => exact ih (wf_write h)

/-- A read after a run of writes. -/
theorem read_writeList {k : Nat} {vs : List (BitVec w)} {m : Memory w} (h : m.wf = true) (j : Nat) :
    (m.writeList k vs).read j = if k ≤ j then (vs[j - k]?).getD (m.read j) else m.read j := by
  induction vs generalizing m k with
  | nil => simp [Memory.writeList]
  | cons v rest ih =>
    rw [Memory.writeList, ih (wf_write h), read_write h]
    rcases Nat.lt_trichotomy j k with hlt | rfl | hgt
    · rw [if_neg (by omega), if_neg (by omega), if_neg (by omega)]
    · simp
    · rw [if_pos (by omega : k + 1 ≤ j), if_pos (by omega : k ≤ j), if_neg (by omega : ¬ j = k)]
      obtain ⟨d, rfl⟩ : ∃ d, j = k + 1 + d := ⟨j - (k + 1), by omega⟩
      have h1 : k + 1 + d - (k + 1) = d := by omega
      have h2 : k + 1 + d - k = d + 1 := by omega
      rw [h1, h2, List.getElem?_cons_succ]

theorem within_put {bound k : Nat} {v : BitVec w} {m : Memory w} (hk : k < bound)
    (h : m.within bound = true) : (Memory.put k v m).within bound = true := by
  unfold Memory.put
  split
  · exact h
  · simpa only [Memory.within, List.all_cons, Bool.and_eq_true, decide_eq_true_eq] using ⟨hk, h⟩

/-- A write below the array's length keeps it within its length. -/
theorem within_write {bound k : Nat} {v : BitVec w} {m : Memory w} (hk : k < bound)
    (h : m.within bound = true) : (m.write k v).within bound = true := by
  induction m with
  | nil => exact within_put hk rfl
  | cons cell rest ih =>
    obtain ⟨a, u⟩ := cell
    have hc : a < bound ∧ Memory.within bound rest = true := by
      simpa [Memory.within, List.all_cons] using h
    simp only [Memory.write]
    split
    · exact within_put hk h
    · split
      · exact within_put hk hc.2
      · simpa [Memory.within, List.all_cons, hc.1] using ih hc.2

theorem within_writeList {bound k : Nat} {vs : List (BitVec w)} {m : Memory w}
    (hk : k + vs.length ≤ bound) (h : m.within bound = true) :
    (m.writeList k vs).within bound = true := by
  induction vs generalizing m k with
  | nil => exact h
  | cons v rest ih =>
    simp only [List.length_cons] at hk
    exact ih (by omega) (within_write (by omega) h)

/-- The canonical form holds of contents given entry by entry. -/
theorem wf_ofFn (n : Nat) (contents : Nat → BitVec w) : (Memory.ofFn n contents).wf = true :=
  wf_writeList rfl

theorem within_ofFn (n : Nat) (contents : Nat → BitVec w) :
    (Memory.ofFn n contents).within n = true :=
  within_writeList (by simp) rfl

theorem read_ofFn (n : Nat) (contents : Nat → BitVec w) (i : Nat) :
    (Memory.ofFn n contents).read i = if i < n then contents i else unlisted w := by
  rw [Memory.ofFn, read_writeList rfl, if_pos (Nat.zero_le i), Nat.sub_zero, List.getElem?_map]
  by_cases h : i < n
  · simp [h]
  · simp [h, Memory.read]

end Sys2Proof.Machine.Memory
end

