-- ==== Sys2Proof/Laws/State.lean ====
section
/-! SUPPORT. One lemma per field per named operation: what the field is afterwards. -/

namespace Sys2Proof.Machine

variable (s : State)

@[simp] theorem pixWrite_cfg (i : Nat) (c : Color) : (pixWrite i c s).cfg = s.cfg := rfl
@[simp] theorem pixWrite_pix (i : Nat) (c : Color) : (pixWrite i c s).pix = s.pix.write i c := rfl
@[simp] theorem pixWrite_stage (i : Nat) (c : Color) : (pixWrite i c s).stage = s.stage := rfl
@[simp] theorem pixWrite_busy (i : Nat) (c : Color) : (pixWrite i c s).busy = s.busy := rfl
@[simp] theorem pixWrite_chEn (i : Nat) (c : Color) : (pixWrite i c s).chEn = s.chEn := rfl
@[simp] theorem pixWrite_dmaCnt (i : Nat) (c : Color) : (pixWrite i c s).dmaCnt = s.dmaCnt := rfl
@[simp] theorem pixWrite_dmaPtr (i : Nat) (c : Color) : (pixWrite i c s).dmaPtr = s.dmaPtr := rfl
@[simp] theorem pixWrite_tcPend (i : Nat) (c : Color) : (pixWrite i c s).tcPend = s.tcPend := rfl
@[simp] theorem pixWrite_inIrq (i : Nat) (c : Color) : (pixWrite i c s).inIrq = s.inIrq := rfl
@[simp] theorem pixWrite_fault (i : Nat) (c : Color) : (pixWrite i c s).fault = s.fault := rfl
@[simp] theorem pixWrite_wire (i : Nat) (c : Color) : (pixWrite i c s).wire = s.wire := rfl
@[simp] theorem pixWrite_rdata (i : Nat) (c : Color) : (pixWrite i c s).rdata = s.rdata := rfl
@[simp] theorem pixWrite_responses (i : Nat) (c : Color) : (pixWrite i c s).responses =
    s.responses := rfl
@[simp] theorem pixWrite_agents (i : Nat) (c : Color) : (pixWrite i c s).agents = s.agents := rfl

@[simp] theorem pixFill_cfg (c : Color) : (pixFill c s).cfg = s.cfg := rfl
@[simp] theorem pixFill_pix (c : Color) : (pixFill c s).pix =
    s.pix.writeList 0 (List.replicate s.cfg.ledCount c) := rfl
@[simp] theorem pixFill_stage (c : Color) : (pixFill c s).stage = s.stage := rfl
@[simp] theorem pixFill_busy (c : Color) : (pixFill c s).busy = s.busy := rfl
@[simp] theorem pixFill_chEn (c : Color) : (pixFill c s).chEn = s.chEn := rfl
@[simp] theorem pixFill_dmaCnt (c : Color) : (pixFill c s).dmaCnt = s.dmaCnt := rfl
@[simp] theorem pixFill_dmaPtr (c : Color) : (pixFill c s).dmaPtr = s.dmaPtr := rfl
@[simp] theorem pixFill_tcPend (c : Color) : (pixFill c s).tcPend = s.tcPend := rfl
@[simp] theorem pixFill_inIrq (c : Color) : (pixFill c s).inIrq = s.inIrq := rfl
@[simp] theorem pixFill_fault (c : Color) : (pixFill c s).fault = s.fault := rfl
@[simp] theorem pixFill_wire (c : Color) : (pixFill c s).wire = s.wire := rfl
@[simp] theorem pixFill_rdata (c : Color) : (pixFill c s).rdata = s.rdata := rfl
@[simp] theorem pixFill_responses (c : Color) : (pixFill c s).responses = s.responses := rfl
@[simp] theorem pixFill_agents (c : Color) : (pixFill c s).agents = s.agents := rfl

@[simp] theorem respond_cfg (c : Color) : (respond c s).cfg = s.cfg := rfl
@[simp] theorem respond_pix (c : Color) : (respond c s).pix = s.pix := rfl
@[simp] theorem respond_stage (c : Color) : (respond c s).stage = s.stage := rfl
@[simp] theorem respond_busy (c : Color) : (respond c s).busy = s.busy := rfl
@[simp] theorem respond_chEn (c : Color) : (respond c s).chEn = s.chEn := rfl
@[simp] theorem respond_dmaCnt (c : Color) : (respond c s).dmaCnt = s.dmaCnt := rfl
@[simp] theorem respond_dmaPtr (c : Color) : (respond c s).dmaPtr = s.dmaPtr := rfl
@[simp] theorem respond_tcPend (c : Color) : (respond c s).tcPend = s.tcPend := rfl
@[simp] theorem respond_inIrq (c : Color) : (respond c s).inIrq = s.inIrq := rfl
@[simp] theorem respond_fault (c : Color) : (respond c s).fault = s.fault := rfl
@[simp] theorem respond_wire (c : Color) : (respond c s).wire = s.wire := rfl
@[simp] theorem respond_rdata (c : Color) : (respond c s).rdata = c := rfl
@[simp] theorem respond_responses (c : Color) : (respond c s).responses = s.responses ++ [c] := rfl
@[simp] theorem respond_agents (c : Color) : (respond c s).agents = s.agents := rfl

@[simp] theorem raiseFault_cfg (k : FaultCode) : (raiseFault k s).cfg = s.cfg := rfl
@[simp] theorem raiseFault_pix (k : FaultCode) : (raiseFault k s).pix = s.pix := rfl
@[simp] theorem raiseFault_stage (k : FaultCode) : (raiseFault k s).stage = s.stage := rfl
@[simp] theorem raiseFault_busy (k : FaultCode) : (raiseFault k s).busy = s.busy := rfl
@[simp] theorem raiseFault_chEn (k : FaultCode) : (raiseFault k s).chEn = s.chEn := rfl
@[simp] theorem raiseFault_dmaCnt (k : FaultCode) : (raiseFault k s).dmaCnt = s.dmaCnt := rfl
@[simp] theorem raiseFault_dmaPtr (k : FaultCode) : (raiseFault k s).dmaPtr = s.dmaPtr := rfl
@[simp] theorem raiseFault_tcPend (k : FaultCode) : (raiseFault k s).tcPend = s.tcPend := rfl
@[simp] theorem raiseFault_inIrq (k : FaultCode) : (raiseFault k s).inIrq = s.inIrq := rfl
@[simp] theorem raiseFault_fault (k : FaultCode) : (raiseFault k s).fault =
    recordFault s.fault k := rfl
@[simp] theorem raiseFault_wire (k : FaultCode) : (raiseFault k s).wire = s.wire := rfl
@[simp] theorem raiseFault_rdata (k : FaultCode) : (raiseFault k s).rdata = s.rdata := rfl
@[simp] theorem raiseFault_responses (k : FaultCode) : (raiseFault k s).responses =
    s.responses := rfl
@[simp] theorem raiseFault_agents (k : FaultCode) : (raiseFault k s).agents =
    stopIssuer s.inIrq s.agents := rfl

@[simp] theorem enterInterrupt_cfg : (enterInterrupt s).cfg = s.cfg := rfl
@[simp] theorem enterInterrupt_pix : (enterInterrupt s).pix = s.pix := rfl
@[simp] theorem enterInterrupt_stage : (enterInterrupt s).stage = s.stage := rfl
@[simp] theorem enterInterrupt_busy : (enterInterrupt s).busy = s.busy := rfl
@[simp] theorem enterInterrupt_chEn : (enterInterrupt s).chEn = s.chEn := rfl
@[simp] theorem enterInterrupt_dmaCnt : (enterInterrupt s).dmaCnt = s.dmaCnt := rfl
@[simp] theorem enterInterrupt_dmaPtr : (enterInterrupt s).dmaPtr = s.dmaPtr := rfl
@[simp] theorem enterInterrupt_tcPend : (enterInterrupt s).tcPend = false := rfl
@[simp] theorem enterInterrupt_inIrq : (enterInterrupt s).inIrq = true := rfl
@[simp] theorem enterInterrupt_fault : (enterInterrupt s).fault = s.fault := rfl
@[simp] theorem enterInterrupt_wire : (enterInterrupt s).wire = s.wire := rfl
@[simp] theorem enterInterrupt_rdata : (enterInterrupt s).rdata = s.rdata := rfl
@[simp] theorem enterInterrupt_responses : (enterInterrupt s).responses = s.responses := rfl
@[simp] theorem enterInterrupt_agents : (enterInterrupt s).agents = s.agents := rfl

@[simp] theorem returnFromInterrupt_cfg : (returnFromInterrupt s).cfg = s.cfg := rfl
@[simp] theorem returnFromInterrupt_pix : (returnFromInterrupt s).pix = s.pix := rfl
@[simp] theorem returnFromInterrupt_stage : (returnFromInterrupt s).stage = s.stage := rfl
@[simp] theorem returnFromInterrupt_busy : (returnFromInterrupt s).busy = s.busy := rfl
@[simp] theorem returnFromInterrupt_chEn : (returnFromInterrupt s).chEn = s.chEn := rfl
@[simp] theorem returnFromInterrupt_dmaCnt : (returnFromInterrupt s).dmaCnt = s.dmaCnt := rfl
@[simp] theorem returnFromInterrupt_dmaPtr : (returnFromInterrupt s).dmaPtr = s.dmaPtr := rfl
@[simp] theorem returnFromInterrupt_tcPend : (returnFromInterrupt s).tcPend = s.tcPend := rfl
@[simp] theorem returnFromInterrupt_inIrq : (returnFromInterrupt s).inIrq = false := rfl
@[simp] theorem returnFromInterrupt_fault : (returnFromInterrupt s).fault = s.fault := rfl
@[simp] theorem returnFromInterrupt_wire : (returnFromInterrupt s).wire = s.wire := rfl
@[simp] theorem returnFromInterrupt_rdata : (returnFromInterrupt s).rdata = s.rdata := rfl
@[simp] theorem returnFromInterrupt_responses : (returnFromInterrupt s).responses =
    s.responses := rfl
@[simp] theorem returnFromInterrupt_agents : (returnFromInterrupt s).agents = s.agents := rfl

@[simp] theorem releaseBusy_cfg : (releaseBusy s).cfg = s.cfg := rfl
@[simp] theorem releaseBusy_pix : (releaseBusy s).pix = s.pix := rfl
@[simp] theorem releaseBusy_stage : (releaseBusy s).stage = s.stage := rfl
@[simp] theorem releaseBusy_busy : (releaseBusy s).busy = false := rfl
@[simp] theorem releaseBusy_chEn : (releaseBusy s).chEn = s.chEn := rfl
@[simp] theorem releaseBusy_dmaCnt : (releaseBusy s).dmaCnt = s.dmaCnt := rfl
@[simp] theorem releaseBusy_dmaPtr : (releaseBusy s).dmaPtr = s.dmaPtr := rfl
@[simp] theorem releaseBusy_tcPend : (releaseBusy s).tcPend = s.tcPend := rfl
@[simp] theorem releaseBusy_inIrq : (releaseBusy s).inIrq = s.inIrq := rfl
@[simp] theorem releaseBusy_fault : (releaseBusy s).fault = s.fault := rfl
@[simp] theorem releaseBusy_wire : (releaseBusy s).wire = s.wire := rfl
@[simp] theorem releaseBusy_rdata : (releaseBusy s).rdata = s.rdata := rfl
@[simp] theorem releaseBusy_responses : (releaseBusy s).responses = s.responses := rfl
@[simp] theorem releaseBusy_agents : (releaseBusy s).agents = s.agents := rfl

@[simp] theorem acquireBusy_cfg : (acquireBusy s).cfg = s.cfg := rfl
@[simp] theorem acquireBusy_pix : (acquireBusy s).pix = s.pix := rfl
@[simp] theorem acquireBusy_stage : (acquireBusy s).stage = s.stage := rfl
@[simp] theorem acquireBusy_busy : (acquireBusy s).busy = true := rfl
@[simp] theorem acquireBusy_chEn : (acquireBusy s).chEn = s.chEn := rfl
@[simp] theorem acquireBusy_dmaCnt : (acquireBusy s).dmaCnt = s.dmaCnt := rfl
@[simp] theorem acquireBusy_dmaPtr : (acquireBusy s).dmaPtr = s.dmaPtr := rfl
@[simp] theorem acquireBusy_tcPend : (acquireBusy s).tcPend = s.tcPend := rfl
@[simp] theorem acquireBusy_inIrq : (acquireBusy s).inIrq = s.inIrq := rfl
@[simp] theorem acquireBusy_fault : (acquireBusy s).fault = s.fault := rfl
@[simp] theorem acquireBusy_wire : (acquireBusy s).wire = s.wire := rfl
@[simp] theorem acquireBusy_rdata : (acquireBusy s).rdata = s.rdata := rfl
@[simp] theorem acquireBusy_responses : (acquireBusy s).responses = s.responses := rfl
@[simp] theorem acquireBusy_agents : (acquireBusy s).agents = s.agents := rfl

@[simp] theorem disableChannel_cfg : (disableChannel s).cfg = s.cfg := rfl
@[simp] theorem disableChannel_pix : (disableChannel s).pix = s.pix := rfl
@[simp] theorem disableChannel_stage : (disableChannel s).stage = s.stage := rfl
@[simp] theorem disableChannel_busy : (disableChannel s).busy = s.busy := rfl
@[simp] theorem disableChannel_chEn : (disableChannel s).chEn = false := rfl
@[simp] theorem disableChannel_dmaCnt : (disableChannel s).dmaCnt = s.dmaCnt := rfl
@[simp] theorem disableChannel_dmaPtr : (disableChannel s).dmaPtr = s.dmaPtr := rfl
@[simp] theorem disableChannel_tcPend : (disableChannel s).tcPend = s.tcPend := rfl
@[simp] theorem disableChannel_inIrq : (disableChannel s).inIrq = s.inIrq := rfl
@[simp] theorem disableChannel_fault : (disableChannel s).fault = s.fault := rfl
@[simp] theorem disableChannel_wire : (disableChannel s).wire = s.wire := rfl
@[simp] theorem disableChannel_rdata : (disableChannel s).rdata = s.rdata := rfl
@[simp] theorem disableChannel_responses : (disableChannel s).responses = s.responses := rfl
@[simp] theorem disableChannel_agents : (disableChannel s).agents = s.agents := rfl

@[simp] theorem programLength_cfg (c : Nat) : (programLength c s).cfg = s.cfg := rfl
@[simp] theorem programLength_pix (c : Nat) : (programLength c s).pix = s.pix := rfl
@[simp] theorem programLength_stage (c : Nat) : (programLength c s).stage = s.stage := rfl
@[simp] theorem programLength_busy (c : Nat) : (programLength c s).busy = s.busy := rfl
@[simp] theorem programLength_chEn (c : Nat) : (programLength c s).chEn = s.chEn := rfl
@[simp] theorem programLength_dmaCnt (c : Nat) : (programLength c s).dmaCnt =
    fitCounter s.cfg.toParams (transferLength s.cfg.toParams c) := rfl
@[simp] theorem programLength_dmaPtr (c : Nat) : (programLength c s).dmaPtr = 0 := rfl
@[simp] theorem programLength_tcPend (c : Nat) : (programLength c s).tcPend = s.tcPend := rfl
@[simp] theorem programLength_inIrq (c : Nat) : (programLength c s).inIrq = s.inIrq := rfl
@[simp] theorem programLength_fault (c : Nat) : (programLength c s).fault = s.fault := rfl
@[simp] theorem programLength_wire (c : Nat) : (programLength c s).wire = s.wire := rfl
@[simp] theorem programLength_rdata (c : Nat) : (programLength c s).rdata = s.rdata := rfl
@[simp] theorem programLength_responses (c : Nat) : (programLength c s).responses =
    s.responses := rfl
@[simp] theorem programLength_agents (c : Nat) : (programLength c s).agents = s.agents := rfl

@[simp] theorem writeFrame_cfg (c : Nat) : (writeFrame c s).cfg = s.cfg := rfl
@[simp] theorem writeFrame_pix (c : Nat) : (writeFrame c s).pix = s.pix := rfl
@[simp] theorem writeFrame_stage (c : Nat) : (writeFrame c s).stage =
    s.stage.writeList 0 (frame s.cfg.toParams (pixRead s) c) := rfl
@[simp] theorem writeFrame_busy (c : Nat) : (writeFrame c s).busy = s.busy := rfl
@[simp] theorem writeFrame_chEn (c : Nat) : (writeFrame c s).chEn = s.chEn := rfl
@[simp] theorem writeFrame_dmaCnt (c : Nat) : (writeFrame c s).dmaCnt = s.dmaCnt := rfl
@[simp] theorem writeFrame_dmaPtr (c : Nat) : (writeFrame c s).dmaPtr = s.dmaPtr := rfl
@[simp] theorem writeFrame_tcPend (c : Nat) : (writeFrame c s).tcPend = s.tcPend := rfl
@[simp] theorem writeFrame_inIrq (c : Nat) : (writeFrame c s).inIrq = s.inIrq := rfl
@[simp] theorem writeFrame_fault (c : Nat) : (writeFrame c s).fault = s.fault := rfl
@[simp] theorem writeFrame_wire (c : Nat) : (writeFrame c s).wire = s.wire := rfl
@[simp] theorem writeFrame_rdata (c : Nat) : (writeFrame c s).rdata = s.rdata := rfl
@[simp] theorem writeFrame_responses (c : Nat) : (writeFrame c s).responses = s.responses := rfl
@[simp] theorem writeFrame_agents (c : Nat) : (writeFrame c s).agents = s.agents := rfl

@[simp] theorem enableChannel_cfg : (enableChannel s).cfg = s.cfg := rfl
@[simp] theorem enableChannel_pix : (enableChannel s).pix = s.pix := rfl
@[simp] theorem enableChannel_stage : (enableChannel s).stage = s.stage := rfl
@[simp] theorem enableChannel_busy : (enableChannel s).busy = s.busy := rfl
@[simp] theorem enableChannel_chEn : (enableChannel s).chEn = true := rfl
@[simp] theorem enableChannel_dmaCnt : (enableChannel s).dmaCnt = s.dmaCnt := rfl
@[simp] theorem enableChannel_dmaPtr : (enableChannel s).dmaPtr = s.dmaPtr := rfl
@[simp] theorem enableChannel_tcPend : (enableChannel s).tcPend = s.tcPend := rfl
@[simp] theorem enableChannel_inIrq : (enableChannel s).inIrq = s.inIrq := rfl
@[simp] theorem enableChannel_fault : (enableChannel s).fault = s.fault := rfl
@[simp] theorem enableChannel_wire : (enableChannel s).wire = s.wire := rfl
@[simp] theorem enableChannel_rdata : (enableChannel s).rdata = s.rdata := rfl
@[simp] theorem enableChannel_responses : (enableChannel s).responses = s.responses := rfl
@[simp] theorem enableChannel_agents : (enableChannel s).agents = s.agents := rfl

@[simp] theorem startTransfer_cfg (c : Nat) : (startTransfer c s).cfg = s.cfg := rfl
@[simp] theorem startTransfer_pix (c : Nat) : (startTransfer c s).pix = s.pix := rfl
@[simp] theorem startTransfer_stage (c : Nat) : (startTransfer c s).stage =
    s.stage.writeList 0 (frame s.cfg.toParams (pixRead s) c) := rfl
@[simp] theorem startTransfer_busy (c : Nat) : (startTransfer c s).busy = true := rfl
@[simp] theorem startTransfer_chEn (c : Nat) : (startTransfer c s).chEn = true := rfl
@[simp] theorem startTransfer_dmaCnt (c : Nat) : (startTransfer c s).dmaCnt =
    fitCounter s.cfg.toParams (transferLength s.cfg.toParams c) := rfl
@[simp] theorem startTransfer_dmaPtr (c : Nat) : (startTransfer c s).dmaPtr = 0 := rfl
@[simp] theorem startTransfer_tcPend (c : Nat) : (startTransfer c s).tcPend = s.tcPend := rfl
@[simp] theorem startTransfer_inIrq (c : Nat) : (startTransfer c s).inIrq = s.inIrq := rfl
@[simp] theorem startTransfer_fault (c : Nat) : (startTransfer c s).fault = s.fault := rfl
@[simp] theorem startTransfer_wire (c : Nat) : (startTransfer c s).wire = s.wire := rfl
@[simp] theorem startTransfer_rdata (c : Nat) : (startTransfer c s).rdata = s.rdata := rfl
@[simp] theorem startTransfer_responses (c : Nat) : (startTransfer c s).responses =
    s.responses := rfl
@[simp] theorem startTransfer_agents (c : Nat) : (startTransfer c s).agents = s.agents := rfl

@[simp] theorem moveByte_cfg (b : Byte) : (moveByte b s).cfg = s.cfg := rfl
@[simp] theorem moveByte_pix (b : Byte) : (moveByte b s).pix = s.pix := rfl
@[simp] theorem moveByte_stage (b : Byte) : (moveByte b s).stage = s.stage := rfl
@[simp] theorem moveByte_busy (b : Byte) : (moveByte b s).busy = s.busy := rfl
@[simp] theorem moveByte_chEn (b : Byte) : (moveByte b s).chEn = s.chEn := rfl
@[simp] theorem moveByte_dmaCnt (b : Byte) : (moveByte b s).dmaCnt = s.dmaCnt - 1 := rfl
@[simp] theorem moveByte_dmaPtr (b : Byte) : (moveByte b s).dmaPtr = s.dmaPtr + 1 := rfl
@[simp] theorem moveByte_tcPend (b : Byte) : (moveByte b s).tcPend =
    pendingAfter (s.dmaCnt - 1) s.tcPend := rfl
@[simp] theorem moveByte_inIrq (b : Byte) : (moveByte b s).inIrq = s.inIrq := rfl
@[simp] theorem moveByte_fault (b : Byte) : (moveByte b s).fault = s.fault := rfl
@[simp] theorem moveByte_wire (b : Byte) : (moveByte b s).wire = s.wire ++ [b] := rfl
@[simp] theorem moveByte_rdata (b : Byte) : (moveByte b s).rdata = s.rdata := rfl
@[simp] theorem moveByte_responses (b : Byte) : (moveByte b s).responses = s.responses := rfl
@[simp] theorem moveByte_agents (b : Byte) : (moveByte b s).agents = s.agents := rfl

@[simp] theorem popCommand_cfg : (popCommand s).cfg = s.cfg := rfl
@[simp] theorem popCommand_pix : (popCommand s).pix = s.pix := rfl
@[simp] theorem popCommand_stage : (popCommand s).stage = s.stage := rfl
@[simp] theorem popCommand_busy : (popCommand s).busy = s.busy := rfl
@[simp] theorem popCommand_chEn : (popCommand s).chEn = s.chEn := rfl
@[simp] theorem popCommand_dmaCnt : (popCommand s).dmaCnt = s.dmaCnt := rfl
@[simp] theorem popCommand_dmaPtr : (popCommand s).dmaPtr = s.dmaPtr := rfl
@[simp] theorem popCommand_tcPend : (popCommand s).tcPend = s.tcPend := rfl
@[simp] theorem popCommand_inIrq : (popCommand s).inIrq = s.inIrq := rfl
@[simp] theorem popCommand_fault : (popCommand s).fault = s.fault := rfl
@[simp] theorem popCommand_wire : (popCommand s).wire = s.wire := rfl
@[simp] theorem popCommand_rdata : (popCommand s).rdata = s.rdata := rfl
@[simp] theorem popCommand_responses : (popCommand s).responses = s.responses := rfl
@[simp] theorem popCommand_agents : (popCommand s).agents =
    { s.agents with stream := s.agents.stream.tail } := rfl

@[simp] theorem takeTurn_cfg : (takeTurn s).cfg = s.cfg := rfl
@[simp] theorem takeTurn_pix : (takeTurn s).pix = s.pix := rfl
@[simp] theorem takeTurn_stage : (takeTurn s).stage = s.stage := rfl
@[simp] theorem takeTurn_busy : (takeTurn s).busy = s.busy := rfl
@[simp] theorem takeTurn_chEn : (takeTurn s).chEn = s.chEn := rfl
@[simp] theorem takeTurn_dmaCnt : (takeTurn s).dmaCnt = s.dmaCnt := rfl
@[simp] theorem takeTurn_dmaPtr : (takeTurn s).dmaPtr = s.dmaPtr := rfl
@[simp] theorem takeTurn_tcPend : (takeTurn s).tcPend = s.tcPend := rfl
@[simp] theorem takeTurn_inIrq : (takeTurn s).inIrq = s.inIrq := rfl
@[simp] theorem takeTurn_fault : (takeTurn s).fault = s.fault := rfl
@[simp] theorem takeTurn_wire : (takeTurn s).wire = s.wire := rfl
@[simp] theorem takeTurn_rdata : (takeTurn s).rdata = s.rdata := rfl
@[simp] theorem takeTurn_responses : (takeTurn s).responses = s.responses := rfl
@[simp] theorem takeTurn_agents : (takeTurn s).agents =
    { s.agents with schedule := (turnsAhead s).tail, tick := s.agents.tick + 1 } := rfl

@[simp] theorem pixRead_popCommand : pixRead (popCommand s) = pixRead s := rfl
@[simp] theorem pixRead_takeTurn : pixRead (takeTurn s) = pixRead s := rfl
@[simp] theorem stageRead_popCommand : stageRead (popCommand s) = stageRead s := rfl
@[simp] theorem stageRead_takeTurn : stageRead (takeTurn s) = stageRead s := rfl

end Sys2Proof.Machine
end

