-- ==== Sys2Proof/Laws/Ops.lean ====
section
/-! SUPPORT. What each shared operation, each meaning and a step can do, said once. -/

namespace Sys2Proof.Machine

/-! ## Operands and the encoder -/

theorem inStrip_iff (p : Params) (i : Nat) : inStrip p i = true ↔ i < p.ledCount := by
  simp [inStrip]

/-- An effective count never exceeds the strip (R143). -/
theorem effectiveCount_le {p : Params} {n c : Nat} (h : effectiveCount p n = some c) :
    c ≤ p.ledCount := by
  unfold effectiveCount at h
  split at h
  · cases h; assumption
  · split at h <;> cases h
    exact le_rfl

theorem effectiveCount_of_le {p : Params} {n : Nat} (h : n ≤ p.ledCount) :
    effectiveCount p n = some n := if_pos h

theorem transferLength_le {p : Params} {c : Nat} (h : c ≤ p.ledCount) :
    transferLength p c ≤ stageLength p := by
  unfold transferLength stageLength; omega

/-- R8, for a well-formed configuration. -/
theorem one_le_resetBytes (cfg : Config) : 1 ≤ cfg.resetBytes := by
  have h := cfg.ok
  simp only [Params.wf, Bool.and_eq_true, decide_eq_true_eq] at h
  exact h.1.1.1.2

/-- R7, for a well-formed configuration. -/
theorem one_le_ledCount (cfg : Config) : 1 ≤ cfg.ledCount := by
  have h := cfg.ok
  simp only [Params.wf, Bool.and_eq_true, decide_eq_true_eq] at h
  exact h.1.1.1.1.1

/-- R11, for a well-formed configuration: no length overflows the counter. -/
theorem stageLength_lt (cfg : Config) : stageLength cfg.toParams < 2 ^ cfg.lenWidth := by
  have h := cfg.ok
  simp only [Params.wf, Bool.and_eq_true, decide_eq_true_eq] at h
  have := h.2
  have := Nat.two_pow_pos cfg.lenWidth
  unfold stageLength
  omega

/-- A length that a REFRESH programs fits `DMA_CNT` (R11, R26). -/
theorem fitCounter_transferLength {cfg : Config} {c : Nat} (h : c ≤ cfg.ledCount) :
    fitCounter cfg.toParams (transferLength cfg.toParams c) = transferLength cfg.toParams c :=
  Nat.mod_eq_of_lt (lt_of_le_of_lt (transferLength_le h) (stageLength_lt cfg))

/-- R10, for a well-formed configuration. -/
theorem idleByte_ne (cfg : Config) :
    cfg.idleByte ≠ cfg.symbolZero ∧ cfg.idleByte ≠ cfg.symbolOne := by
  have h := cfg.ok
  simp only [Params.wf, Bool.and_eq_true, bne_iff_ne] at h
  exact h.1.2

/-- R9(a), for a well-formed configuration. -/
theorem symbolZero_ne_symbolOne (cfg : Config) : cfg.symbolZero ≠ cfg.symbolOne := by
  have h := cfg.ok
  simp only [Params.wf, Params.symbolsOk, Bool.and_eq_true, bne_iff_ne] at h
  exact h.1.1.2.1

@[simp] theorem length_frame (p : Params) (pixel : Nat → Color) (c : Nat) :
    (frame p pixel c).length = transferLength p c := by
  simp [frame]

theorem getElem_frame {p : Params} {pixel : Nat → Color} {c j : Nat}
    (h : j < (frame p pixel c).length) : (frame p pixel c)[j] = frameByte p pixel c j := by
  simp [frame]

/-! ## The arrays -/

theorem pixRead_pixWrite {s : State} (h : s.pix.wf = true) (i : Nat) (c : Color) (k : Nat) :
    pixRead (pixWrite i c s) k = if k = i then c else pixRead s k :=
  Memory.read_write h k

theorem pixRead_pixFill {s : State} (h : s.pix.wf = true) (c : Color) (k : Nat) :
    pixRead (pixFill c s) k = if k < s.cfg.ledCount then c else pixRead s k := by
  refine (Memory.read_writeList h k).trans ?_
  rw [if_pos (Nat.zero_le k), Nat.sub_zero]
  by_cases hk : k < s.cfg.ledCount <;> simp [hk, pixRead]

/-- `STAGE` after `WriteFrame(c)` (R125). -/
theorem stageRead_writeFrame {s : State} (h : s.stage.wf = true) (c j : Nat) :
    stageRead (writeFrame c s) j =
      if j < transferLength s.cfg.toParams c then frameByte s.cfg.toParams (pixRead s) c j
      else stageRead s j := by
  refine (Memory.read_writeList h j).trans ?_
  rw [if_pos (Nat.zero_le j), Nat.sub_zero]
  by_cases hj : j < transferLength s.cfg.toParams c <;> simp [hj, frame, stageRead]

theorem stageRead_startTransfer {s : State} (h : s.stage.wf = true) (c j : Nat) :
    stageRead (startTransfer c s) j =
      if j < transferLength s.cfg.toParams c then frameByte s.cfg.toParams (pixRead s) c j
      else stageRead s j :=
  stageRead_writeFrame h c j

/-! ## Commands -/

theorem inThread_next {s t : State} {f : State → Result} (h : inThread s f = .next t) :
    (s.inIrq = true ∧ t = raiseFault .wrongContext s) ∨ (s.inIrq = false ∧ f s = .next t) := by
  unfold inThread at h
  cases hi : s.inIrq <;> simp_all

theorem inInterrupt_next {s t : State} {f : State → Result} (h : inInterrupt s f = .next t) :
    (s.inIrq = false ∧ t = raiseFault .wrongContext s) ∨ (s.inIrq = true ∧ f s = .next t) := by
  unfold inInterrupt at h
  cases hi : s.inIrq <;> simp_all

/-- What a command can do: nothing, record a fault, or its own effect. -/
inductive CommandEffect (i : Instr) (s : State) : State → Prop where
  | nothing : CommandEffect i s s
  | faulted (code : FaultCode) : CommandEffect i s (raiseFault code s)
  | wroteEntry (k : Nat) (c : Color) (hi : i = .setpixel k c) (thread : s.inIrq = false)
      (hk : k < s.cfg.ledCount) : CommandEffect i s (pixWrite k c s)
  | filled (c : Color) (hi : i = .fillall c) (thread : s.inIrq = false) :
      CommandEffect i s (pixFill c s)
  | responded (k : Nat) (hi : i = .getpixel k) (thread : s.inIrq = false)
      (hk : k < s.cfg.ledCount) : CommandEffect i s (respond (pixRead s k) s)
  | started (n c : Nat) (hi : i = .refresh n) (thread : s.inIrq = false)
      (init : s.agents.initDone = true) (hc : effectiveCount s.cfg.toParams n = some c)
      (idle : s.busy = false) : CommandEffect i s (startTransfer c s)
  | released (hi : i = .complete) (interrupt : s.inIrq = true) (busy : s.busy = true) :
      CommandEffect i s (returnFromInterrupt (releaseBusy s))

theorem execSetpixel_effect {k : Nat} {c : Color} {s t : State}
    (h : execSetpixel k c s = .next t) : CommandEffect (.setpixel k c) s t := by
  rcases inThread_next h with ⟨-, rfl⟩ | ⟨hi, h⟩
  · exact .faulted _
  · cases hk : inStrip s.cfg.toParams k with
    | true =>
      simp only [hk, if_true] at h
      cases h
      exact .wroteEntry k c rfl hi ((inStrip_iff _ _).1 hk)
    | false =>
      simp only [hk, Bool.false_eq_true, if_false] at h
      cases h
      exact .nothing

theorem execFillall_effect {c : Color} {s t : State} (h : execFillall c s = .next t) :
    CommandEffect (.fillall c) s t := by
  rcases inThread_next h with ⟨-, rfl⟩ | ⟨hi, h⟩
  · exact .faulted _
  · cases h
    exact .filled c rfl hi

theorem execGetpixel_effect {k : Nat} {s t : State} (h : execGetpixel k s = .next t) :
    CommandEffect (.getpixel k) s t := by
  rcases inThread_next h with ⟨-, rfl⟩ | ⟨hi, h⟩
  · exact .faulted _
  · cases hk : inStrip s.cfg.toParams k with
    | true =>
      simp only [hk, if_true] at h
      cases h
      exact .responded k rfl hi ((inStrip_iff _ _).1 hk)
    | false =>
      simp only [hk, Bool.false_eq_true, if_false] at h
      cases h
      exact .faulted _

theorem execRefresh_effect {n : Nat} {s t : State} (h : execRefresh n s = .next t) :
    CommandEffect (.refresh n) s t := by
  unfold execRefresh at h
  split at h
  next hd =>
    rcases inThread_next h with ⟨-, rfl⟩ | ⟨hi, h⟩
    · exact .faulted _
    · split at h
      · cases h; exact .nothing
      · next c hc =>
        cases hb : s.busy with
        | true => simp only [hb, if_true] at h; cases h; exact .nothing
        | false =>
          simp only [hb, Bool.false_eq_true, if_false] at h
          cases h
          exact .started n c rfl hi hd hc hb
  next => cases h

theorem execComplete_effect {s t : State} (h : execComplete s = .next t) :
    CommandEffect .complete s t := by
  rcases inInterrupt_next h with ⟨-, rfl⟩ | ⟨hi, h⟩
  · exact .faulted _
  · cases hb : s.busy with
    | false =>
      simp only [hb, Bool.false_eq_true, if_false] at h
      cases h
      exact .faulted _
    | true =>
      simp only [hb, if_true] at h
      cases h
      exact .released rfl hi hb

/-- Every next state a command answers is one of its effects. -/
theorem exec_effect {i : Instr} {s t : State} (h : exec i s = .next t) : CommandEffect i s t := by
  cases i with
  | setpixel k c => exact execSetpixel_effect h
  | fillall c => exact execFillall_effect h
  | getpixel k => exact execGetpixel_effect h
  | refresh n => exact execRefresh_effect h
  | complete => exact execComplete_effect h

/-- What a word at the port can do (R76, R77). -/
inductive IssueEffect (w : Word) (s : State) : State → Prop where
  | command (i : Instr) (hd : decode w = .command i) {t : State} (h : CommandEffect i s t) :
      IssueEffect w s t
  | rejected (code : FaultCode) (hd : decode w = .rejected code) :
      IssueEffect w s (raiseFault code s)

theorem issue_effect {w : Word} {s t : State} (h : issue w s = .next t) : IssueEffect w s t := by
  unfold issue at h
  split at h
  · next i hd => exact .command i hd (exec_effect h)
  · next code hd => cases h; exact .rejected code hd

/-! ## Turns -/

@[simp] theorem turnsAhead_cons {s : State} {t : Turn} {rest : List Turn}
    (h : s.agents.schedule = t :: rest) : turnsAhead s = t :: rest := by
  simp [turnsAhead, h]

theorem turnsAhead_nil {s : State} (h : s.agents.schedule = []) : turnsAhead s = fairRound s := by
  simp [turnsAhead, h]

/-- R188: every round has a turn of the DMA agent, of ENTRY and of IRQ. -/
theorem mem_fairRound (s : State) {a : Turn} (ha : a ∈ [Turn.dma, .entry, .irq]) :
    a ∈ fairRound s := by
  simp only [List.mem_cons, List.not_mem_nil, or_false] at ha
  rcases ha with rfl | rfl | rfl <;> simp [fairRound]

/-- R188: where a REFRESH waits, a round has a turn of APP. -/
theorem app_mem_fairRound {s : State} (h : refreshWaits s = true) : Turn.app ∈ fairRound s := by
  simp [fairRound, h]

/-- There is always a next turn, and it is the first of those ahead. -/
theorem turnsAhead_eq (s : State) : turnsAhead s = nextTurn s :: (turnsAhead s).tail := by
  cases h : turnsAhead s with
  | nil =>
    cases hs : s.agents.schedule with
    | nil =>
      have := mem_fairRound s (a := .dma) (by simp)
      simp [← turnsAhead_nil hs, h] at this
    | cons t rest => simp [turnsAhead_cons hs] at h
  | cons t rest => simp [nextTurn, h]

@[simp] theorem nextTurn_cons {s : State} {t : Turn} {rest : List Turn}
    (h : s.agents.schedule = t :: rest) : nextTurn s = t := by
  simp [nextTurn, turnsAhead_cons h]

/-- A word that is presented is the issuing agent's, and the next turn is that agent's. -/
@[simp] theorem turnsAhead_presentWord (w : Word) (s : State) :
    turnsAhead (presentWord w s) = (if s.inIrq then .irq else .app) :: s.agents.schedule := by
  cases hi : s.inIrq <;> simp [presentWord, turnsAhead, hi]

@[simp] theorem nextTurn_presentWord (w : Word) (s : State) :
    nextTurn (presentWord w s) = if s.inIrq then .irq else .app := by
  simp [nextTurn]

/-- A REFRESH at the port is held exactly where it waits and a transfer is in flight (R141). -/
theorem refreshWaits_cons {s : State} {w : Word} {rest : List Word} {n c : Nat}
    (hs : s.agents.stream = w :: rest) (hd : decode w = .command (.refresh n))
    (hi : s.agents.initDone = true) (hc : effectiveCount s.cfg.toParams n = some c) :
    refreshWaits s = true ∧ wordHeld w s = s.busy := by
  simp [refreshWaits, wordHeld, commandHeld, refreshHeld, hs, hd, hi, hc]

/-! ## Steps -/

/-- What a step can do, by whose turn it is. -/
inductive StepEffect (s : State) : State → Prop where
  | nothing (h : ∀ cs, nextTurn s ≠ .reset cs) : StepEffect s (takeTurn s)
  | app (h : nextTurn s = .app) (w : Word) (rest : List Word)
      (stream : s.agents.stream = w :: rest) (may : appMayIssue s = true)
      (free : wordHeld w s = false) {t : State} (ht : IssueEffect w (popCommand (takeTurn s)) t) :
      StepEffect s t
  | irq (h : nextTurn s = .irq) (may : irqMayIssue s = true) {t : State}
      (ht : IssueEffect s.agents.handlerWord (takeTurn s) t) : StepEffect s t
  | entry (h : nextTurn s = .entry) (enabled : entryEnabled s = true) :
      StepEffect s (enterInterrupt (takeTurn s))
  | dma (h : nextTurn s = .dma) (enabled : dmaEnabled s = true)
      (hp : s.dmaPtr < stageLength s.cfg.toParams) :
      StepEffect s (moveByte (stageRead s s.dmaPtr) (takeTurn s))
  | init (h : nextTurn s = .init) :
      StepEffect s
        { takeTurn s with agents := { (takeTurn s).agents with initDone := true } }
  | reset (cs : List Word) (h : nextTurn s = .reset cs) :
      StepEffect s (resetBlock (Config.freePixel (s.agents.tick + 1))
        (Config.freeStage (s.agents.tick + 1)) (Config.freeRdata (s.agents.tick + 1)) cs
        (takeTurn s))

/-- Every next state a step answers is one of its effects. -/
theorem step_effect {s t : State} (h : step s = .next t) : StepEffect s t := by
  unfold step at h
  cases ht : nextTurn s with
  | app =>
    simp only [ht, turnStep, appStep, takeTurn_agents] at h
    split at h
    · cases h; exact .nothing (by simp [ht])
    · next w rest hs =>
      split at h
      · next hc =>
        simp only [Bool.and_eq_true, Bool.not_eq_true'] at hc
        exact .app ht w rest hs hc.1 hc.2 (issue_effect h)
      · cases h; exact .nothing (by simp [ht])
  | irq =>
    simp only [ht, turnStep, irqStep] at h
    split at h
    · next hc => exact .irq ht hc (issue_effect h)
    · cases h; exact .nothing (by simp [ht])
  | entry =>
    simp only [ht, turnStep, entryStep] at h
    split at h
    · next hc => cases h; exact .entry ht hc
    · cases h; exact .nothing (by simp [ht])
  | dma =>
    simp only [ht, turnStep, dmaStep] at h
    split at h
    · next hc =>
      split at h
      · next hp => cases h; exact .dma ht hc hp
      · cases h
    · cases h; exact .nothing (by simp [ht])
  | init =>
    simp only [ht, turnStep, initStep] at h
    cases h
    exact .init ht
  | reset cs =>
    simp only [ht, turnStep, resetStep] at h
    cases h
    exact .reset cs ht

/-- No command writes the schedule, the handler program or `INIT_DONE`. -/
theorem CommandEffect.agents_eq {i : Instr} {s t : State} (h : CommandEffect i s t) :
    t.agents.schedule = s.agents.schedule ∧ t.agents.handlerWord = s.agents.handlerWord ∧
    t.agents.initDone = s.agents.initDone ∧ t.agents.stream = s.agents.stream := by
  cases h with
  | faulted code => cases hi : s.inIrq <;> simp [raiseFault, stopIssuer, hi]
  | _ => exact ⟨rfl, rfl, rfl, rfl⟩

theorem IssueEffect.agents_eq {w : Word} {s t : State} (h : IssueEffect w s t) :
    t.agents.schedule = s.agents.schedule ∧ t.agents.handlerWord = s.agents.handlerWord ∧
    t.agents.initDone = s.agents.initDone ∧ t.agents.stream = s.agents.stream := by
  cases h with
  | command i hd h => exact h.agents_eq
  | rejected code hd => exact (CommandEffect.faulted (i := .complete) code).agents_eq

/-- A step uses up one turn, and none is put in. -/
theorem step_schedule {s t : State} (h : step s = .next t) :
    t.agents.schedule = (turnsAhead s).tail := by
  cases step_effect h with
  | app _ _ _ _ _ _ ht => exact ht.agents_eq.1
  | irq _ _ ht => exact ht.agents_eq.1
  | _ => rfl

end Sys2Proof.Machine
end

