-- ==== Sys2Proof/Laws/PerInstr.lean ====
section
/-! SUPPORT. Per command: the encoder sets exactly the bits that R74 fixes. -/

namespace Sys2Proof.Laws

/-- The row of R74 a command belongs to. -/
def rowOf : Instr → Row
  | .setpixel _ _ => rowSetpixel
  | .fillall _ => rowFillall
  | .getpixel _ => rowGetpixel
  | .refresh _ => rowRefresh
  | .complete => rowComplete

/-- The encoded word has the fixed bits of the command's row, and its opcode. -/
def FixedBits.Statement (i : Instr) : Prop :=
  (rowOf i).matches (encode i) = true ∧ opcOf (encode i) = i.opcode

theorem FixedBits.setpixel (index : Nat) (color : Color) :
    FixedBits.Statement (.setpixel index color) :=
  ⟨(matches_setpixel _).2 ⟨opcOf_packWord _ _ _, rsvOf_packWord _ _ _⟩, opcOf_packWord _ _ _⟩

theorem FixedBits.fillall (color : Color) : FixedBits.Statement (.fillall color) :=
  ⟨(matches_fillall _).2 ⟨opcOf_packWord _ _ _, argOf_packWord _ _ _, rsvOf_packWord _ _ _⟩,
   opcOf_packWord _ _ _⟩

theorem FixedBits.getpixel (index : Nat) : FixedBits.Statement (.getpixel index) :=
  ⟨(matches_getpixel _).2 ⟨opcOf_packWord _ _ _, rsvOf_packWord _ _ _, colOf_packWord _ _ _⟩,
   opcOf_packWord _ _ _⟩

theorem FixedBits.refresh (count : Nat) : FixedBits.Statement (.refresh count) :=
  ⟨(matches_refresh _).2 ⟨opcOf_packWord _ _ _, rsvOf_packWord _ _ _, colOf_packWord _ _ _⟩,
   opcOf_packWord _ _ _⟩

theorem FixedBits.complete : FixedBits.Statement .complete := by
  constructor <;> decide

end Sys2Proof.Laws
end

