-- ==== Sys2Proof/Tests/Slice0.lean ====
section
/-! SUPPORT. Tests, each on one word, one configuration or one step, with results from the spec's own
vectors (95_test_vectors.md, in TC0 unless another configuration is named), and for every statement
with hypotheses a concrete case that meets them. -/

namespace Sys2Proof.Tests

open Sys2Proof Sys2Proof.Machine

/-- The next state of an answer, if it is one. -/
def nextOf (r : Result) : Option State :=
  match r with
  | .next t => some t
  | .fault _ => none
  | .refused _ => none

/-! ## Well-formed terms and configurations -/

theorem test_wf_setpixel_limit : (Instr.setpixel 0xFFFFFF 0).wf = true ∧
    (Instr.setpixel 0x1000000 0).wf = false := by decide

theorem test_wf_getpixel_limit : (Instr.getpixel 0x1000000).wf = false := by decide

theorem test_wf_refresh_limit : (Instr.refresh 0x1000000).wf = false := by decide

/-- R7 to R11: one ill-formed configuration for each check. -/
theorem test_config_checks :
    Params.tc0.wf = true ∧
    { Params.tc0 with ledCount := 0 }.wf = false ∧
    { Params.tc0 with ledCount := 2 ^ 24, lenWidth := 64 }.wf = false ∧
    { Params.tc0 with resetBytes := 0 }.wf = false ∧
    { Params.tc0 with symbolOne := 0xC0 }.wf = false ∧
    { Params.tc0 with symbolZero := 0xA0 }.wf = false ∧
    { Params.tc0 with symbolZero := 0xF8, symbolOne := 0xC0 }.wf = false ∧
    { Params.tc0 with symbolOne := 0xFF }.wf = false ∧
    { Params.tc0 with shiftOrder := .lsbFirst }.wf = false ∧
    { Params.tc0 with idleByte := 0xC0 }.wf = false ∧
    { Params.tc0 with idleByte := 0xF8 }.wf = false ∧
    { Params.tc0 with lenWidth := 6 }.wf = false := by decide

/-! ## Decoding (95_test_vectors.md 2.1, words written out from R71 and R73) -/

theorem test_decode_setpixel :
    decode 0x010000010000FF00 = .command (.setpixel 1 0x00FF00) ∧
    decode 0x01FFFFFF00FFFFFF = .command (.setpixel 0xFFFFFF 0xFFFFFF) ∧
    decode 0x0100000001000000 = .rejected .reservedNonzero := by decide

theorem test_decode_fillall :
    decode 0x0200000000123456 = .command (.fillall 0x123456) ∧
    decode 0x0200000100123456 = .rejected .reservedNonzero := by decide

theorem test_decode_getpixel :
    decode 0x0300000200000000 = .command (.getpixel 2) ∧
    decode 0x0300000200000001 = .rejected .reservedNonzero := by decide

theorem test_decode_refresh :
    decode 0x0400000300000000 = .command (.refresh 3) ∧
    decode 0x04FFFFFF00000000 = .command (.refresh 16777215) ∧
    decode 0x0400000000FF0000 = .rejected .reservedNonzero := by decide

theorem test_decode_complete :
    decode 0x0500000000000000 = .command .complete ∧
    decode 0x0500000100000000 = .rejected .reservedNonzero := by decide

theorem test_decode_illegal :
    decode 0x0000000000000000 = .rejected .illegalOpcode ∧
    decode 0x0600000000000000 = .rejected .illegalOpcode ∧
    decode 0xFF00000000000000 = .rejected .illegalOpcode ∧
    decode 0x00000000FF000000 = .rejected .illegalOpcode := by decide

theorem test_decode_table_word :
    decodeTableWord 64 0x0300000200000000 = some (.getpixel 2) ∧
    decodeTableWord 64 0x0600000000000000 = none := by decide

/-- R81: `setpixel 1, 0x00FF00`, with a comment after it. -/
theorem test_assemble_setpixel :
    assemble ['S', 'e', 't', 'P', 'i', 'x', 'e', 'l', ' ', '1', ',', ' ', '0', 'x', '0', '0', 'F',
      'F', '0', '0', ' ', ';', 'x'] = some 0x010000010000FF00 := by decide

/-- The first line of program P1: `setpixel 0, (255,0,0)`. -/
theorem test_assemble_tuple :
    assemble ['s', 'e', 't', 'p', 'i', 'x', 'e', 'l', ' ', '0', ',', ' ', '(', '2', '5', '5', ',',
      '0', ',', '0', ')'] = some 0x0100000000FF0000 := by decide

/-- R81 `refresh 3`; an operand out of range is an error (R79). -/
theorem test_assemble_refresh :
    assemble ['r', 'e', 'f', 'r', 'e', 's', 'h', ' ', '3'] = some 0x0400000300000000 ∧
    assemble ['r', 'e', 'f', 'r', 'e', 's', 'h', ' ', '1', '6', '7', '7', '7', '2', '1', '6'] =
      none := by decide

/-! ## One state to start from -/

/-- `PIX = [0x111111, 0x222222, 0x333333]` (95_test_vectors.md 2.2), after initialisation, with a
stream of commands and a schedule. -/
def sample (stream : List Word) (schedule : List Turn) : State :=
  { State.reset with
    pix := [(0, 0x111111), (1, 0x222222), (2, 0x333333)]
    agents := { State.reset.agents with
      stream := stream, schedule := schedule, initDone := true } }

/-- A transfer of three LEDs with two bytes left (95_test_vectors.md 2.4). -/
def moving (stream : List Word) (schedule : List Turn) : State :=
  { sample stream schedule with busy := true, chEn := true, dmaCnt := 2, dmaPtr := 72 }

/-- The same transfer, pending. -/
def notified (schedule : List Turn) : State :=
  { moving [] schedule with dmaCnt := 0, dmaPtr := 74, tcPend := true }

/-- The same transfer, in the interrupt context. -/
def handling (stream : List Word) (schedule : List Turn) : State :=
  { moving stream schedule with dmaCnt := 0, dmaPtr := 74, inIrq := true }

/-! ## Pixel commands (95_test_vectors.md 2.2) -/

theorem test_setpixel_last_entry :
    (nextOf (exec (.setpixel 2 0x000000) (sample [] []))).map (·.pix) =
      some [(0, 0x111111), (1, 0x222222)] := by decide

theorem test_setpixel_out_of_strip :
    nextOf (exec (.setpixel 3 0xFFFFFF) (sample [] [])) = some (sample [] []) := by decide

theorem test_fillall :
    (nextOf (exec (.fillall 0xFFFFFF) (sample [] []))).map (·.pix) =
      some [(0, 0xFFFFFF), (1, 0xFFFFFF), (2, 0xFFFFFF)] := by decide

theorem test_fillall_zero :
    (nextOf (exec (.fillall 0x000000) (sample [] []))).map (·.pix) = some [] := by decide

theorem test_getpixel :
    (nextOf (exec (.getpixel 2) (sample [] []))).map (fun t => (t.rdata, t.responses)) =
      some (0x333333, [0x333333]) := by decide

theorem test_getpixel_out_of_strip :
    (nextOf (exec (.getpixel 3) (sample [] []))).map
      (fun t => (t.fault, t.rdata, t.responses, t.agents.appStopped)) =
      some (0x04, 0x000000, [], true) := by decide

/-! ## Encoder (95_test_vectors.md 2.3) -/

theorem test_encode_123456 :
    encodeColor Params.tc0 0x123456 =
      [0xC0, 0xC0, 0xF8, 0xF8, 0xC0, 0xF8, 0xC0, 0xC0, 0xC0, 0xC0, 0xC0, 0xF8, 0xC0, 0xC0, 0xF8,
       0xC0, 0xC0, 0xF8, 0xC0, 0xF8, 0xC0, 0xF8, 0xF8, 0xC0] := by decide

theorem test_encode_800001 :
    encodeColor Params.tc0 0x800001 =
      List.replicate 8 0xC0 ++ [0xF8] ++ List.replicate 14 0xC0 ++ [0xF8] := by decide

/-! ## Transfer arbiter and agents (95_test_vectors.md 2.4) -/

theorem test_refresh_starts :
    (nextOf (exec (.refresh 3) (sample [] []))).map
      (fun t => (t.busy, t.chEn, t.dmaCnt, t.dmaPtr)) = some (true, true, 74, 0) := by decide

theorem test_refresh_clamped :
    (nextOf (exec (.refresh 0xFFFFFF) (sample [] []))).map (fun t => (t.busy, t.dmaCnt)) =
      some (true, 74) := by decide

/-- TC0 with `OVERSIZE_POLICY = REJECT` (program P4). -/
def rejecting (busy : Bool) : State :=
  { sample [] [] with
    busy := busy
    cfg := { { Params.tc0 with oversize := .reject } with ok := by decide } }

theorem test_refresh_rejected :
    nextOf (exec (.refresh 4) (rejecting false)) = some (rejecting false) ∧
    nextOf (exec (.refresh 4) (rejecting true)) = some (rejecting true) := by decide

theorem test_complete :
    (nextOf (exec .complete (handling [] []))).map (fun t => (t.busy, t.inIrq)) =
      some (false, false) := by decide

theorem test_complete_in_thread :
    (nextOf (exec .complete (moving [] []))).map (fun t => (t.fault, t.busy)) =
      some (0x08, true) := by decide

theorem test_dma_step :
    (nextOf (step (moving [] [.dma]))).map (fun t => (t.wire, t.dmaCnt, t.dmaPtr, t.tcPend)) =
      some ([0x00], 1, 73, false) := by decide

theorem test_dma_last_step :
    (nextOf (step { moving [] [.dma] with dmaCnt := 1, dmaPtr := 73 })).map
      (fun t => (t.dmaCnt, t.dmaPtr, t.tcPend)) = some (0, 74, true) := by decide

theorem test_entry :
    (nextOf (step (notified [.entry]))).map (fun t => (t.tcPend, t.inIrq)) =
      some (false, true) := by decide

/-- R141: a held REFRESH stays at the port. -/
theorem test_refresh_held :
    (nextOf (step (moving [0x0400000300000000] [.app]))).map
      (fun t => (t.agents.stream, t.dmaCnt)) = some ([0x0400000300000000], 2) := by decide

/-- A round makes room for APP where a REFRESH waits, held or not, and for no other command. -/
theorem test_refresh_waits :
    refreshWaits (moving [0x0400000300000000] []) = true ∧
    refreshWaits (sample [0x0400000300000000] []) = true ∧
    refreshWaits (sample [0x0200000000123456] []) = false ∧
    refreshWaits (State.reset) = false := by decide

/-- The very next step after reset runs a word that is given to the machine. -/
theorem test_fetch_after_reset :
    (nextOf (step (State.reset.withFetchWord 64 0x0400000100000000))).map
      (fun t => (t.busy, t.dmaCnt)) = some (true, 26) := by decide

/-! ## Cases that meet the statements' hypotheses -/

theorem sample_inv (cs : List Word) (ts : List Turn) : BlockInv (sample cs ts) where
  pix_wf := (by decide : (sample [] []).pix.wf = true)
  pix_within := (by decide : (sample [] []).pix.within 3 = true)
  stage_wf := rfl
  stage_within := rfl
  idle := fun _ => ⟨rfl, rfl, rfl⟩
  pending := nofun
  handling := nofun
  disabled := fun _ => ⟨rfl, rfl, rfl⟩
  length := nofun
  in_flight := nofun
  fault_reserved := (by decide : (0x00#8).extractLsb' 5 3 = 0)

theorem moving_inv (cs : List Word) (ts : List Turn) : BlockInv (moving cs ts) where
  pix_wf := (sample_inv cs ts).pix_wf
  pix_within := (sample_inv cs ts).pix_within
  stage_wf := rfl
  stage_within := rfl
  idle := nofun
  pending := nofun
  handling := nofun
  disabled := nofun
  length := fun _ => ⟨3, (by decide : 3 ≤ 3), (by decide : 72 + 2 = 3 * 24 + 2)⟩
  in_flight := fun _ => .inl (by decide : 0 < 2)
  fault_reserved := (by decide : (0x00#8).extractLsb' 5 3 = 0)

theorem handling_inv (cs : List Word) (ts : List Turn) : BlockInv (handling cs ts) where
  pix_wf := (sample_inv cs ts).pix_wf
  pix_within := (sample_inv cs ts).pix_within
  stage_wf := rfl
  stage_within := rfl
  idle := nofun
  pending := nofun
  handling := fun _ => ⟨rfl, rfl, rfl⟩
  disabled := nofun
  length := fun _ => ⟨3, (by decide : 3 ≤ 3), (by decide : 74 + 0 = 3 * 24 + 2)⟩
  in_flight := fun _ => .inr (.inr rfl)
  fault_reserved := (by decide : (0x00#8).extractLsb' 5 3 = 0)

theorem handler_ready_sample (cs : List Word) (ts : List Turn) : HandlerReady (sample cs ts) :=
  ⟨(by decide : State.reset.agents.handlerWord = encode .complete), rfl⟩

theorem witness_DecodeOfEncodeIsTheCommand : (Instr.setpixel 0xFFFFFF 0xFFFFFF).wf = true := by
  decide

theorem witness_DecodedCommandHasOneWord :
    decode 0x01FFFFFF00FFFFFF = .command (.setpixel 0xFFFFFF 0xFFFFFF) := by decide

theorem witness_UnassignedOpcodeRaisesIllegalOpcode :
    (opcOf 0x0600000000000000 ∉ [0x01#8, 0x02#8, 0x03#8, 0x04#8, 0x05#8]) ∧
    (nextTurn (sample [0x0600000000000000] [.app]) = .app ∧
      (sample [0x0600000000000000] [.app]).inIrq = false ∧
      (sample [0x0600000000000000] [.app]).agents.appStopped = false) ∧
    nextTurn (handling [] [.irq]) = .irq ∧ (handling [] [.irq]).inIrq = true ∧
      (handling [] [.irq]).agents.irqStopped = false := by decide

theorem witness_ReservedBitsRaiseReservedNonzero :
    decode 0x0100000080000000 = .rejected .reservedNonzero ∧
    decode 0x0500000000000001 = .rejected .reservedNonzero ∧
    opcOf 0x0100000080000000 = 0x01 ∧ opcOf 0x0200000000000000 = 0x02 ∧
    opcOf 0x0300000000000000 = 0x03 ∧ opcOf 0x0400000000000000 = 0x04 ∧
    opcOf 0x0500000000000001 = 0x05 ∧
    nextTurn (sample [0x0100000080000000] [.app]) = .app := by decide

theorem witness_AssemblerWritesOnlyCommands :
    assemble ['c', 'o', 'm', 'p', 'l', 'e', 't', 'e'] = some 0x0500000000000000 := by decide

theorem witness_StepRunsTheDecodedCommand :
    (nextTurn (sample [0x0400000300000000] [.app]) = .app ∧
      decode 0x0400000300000000 = .command (.refresh 3) ∧
      commandHeld (.refresh 3) (sample [0x0400000300000000] [.app]) = false) ∧
    nextTurn (handling [] [.irq]) = .irq ∧ (handling [] [.irq]).inIrq = true ∧
      (handling [] [.irq]).agents.irqStopped = false ∧
      decode (handling [] [.irq]).agents.handlerWord = .command .complete := by decide

theorem witness_PresentedWordIsRunNext :
    decode 0x0400000300000000 = .command (.refresh 3) ∧
    commandHeld (.refresh 3) (State.reset.withFetchWord 64 0x0400000300000000) = false := by decide

theorem witness_CommandOutsideItsContextFaults :
    (Instr.refresh 3 ≠ .complete ∧ (handling [] []).inIrq = true ∧
      (handling [] []).agents.initDone = true) ∧ (sample [] []).inIrq = false := by decide

theorem witness_AppHasNoStepInInterruptContext :
    BlockInv (handling [] [.app]) ∧ (handling [] [.app]).inIrq = true ∧
    nextTurn (handling [] [.app]) = .app ∧ nextTurn (handling [] [.dma]) = .dma :=
  ⟨handling_inv _ _, rfl, rfl, rfl⟩

/-- For the statements about pixel commands: an entry at each end of the strip, and an index just
outside it. -/
theorem witness_pixel_commands :
    (sample [] []).inIrq = false ∧ (sample [] []).pix.wf = true ∧
    0 < (sample [] []).cfg.ledCount ∧ 2 < (sample [] []).cfg.ledCount ∧
    (sample [] []).cfg.ledCount ≤ 3 := by decide

theorem witness_PixelMemoryLaws :
    ∃ t, execAll [.fillall 0x123456, .setpixel 1 0xFFFFFF, .getpixel 2] (sample [] []) = .next t :=
  ⟨_, rfl⟩

theorem witness_PixelWritesAreIdempotent :
    (∃ t, exec (.setpixel 2 0xABCDEF) (sample [] []) = .next t) ∧
    ∃ t, exec (.fillall 0) (sample [] []) = .next t :=
  ⟨⟨_, rfl⟩, ⟨_, rfl⟩⟩

theorem witness_PixHasTwoWriters :
    ∃ t, step (sample [0x0200000000123456] [.app]) = .next t ∧
      (∀ cs, nextTurn (sample [0x0200000000123456] [.app]) ≠ .reset cs) ∧
      t.pix ≠ (sample [0x0200000000123456] [.app]).pix :=
  ⟨_, rfl, nofun, by decide⟩

/-- For the statements about any step between resets. -/
theorem witness_step_between_resets :
    ∃ t, step (sample [0x0300000200000000] [.app]) = .next t ∧
      (∀ cs, nextTurn (sample [0x0300000200000000] [.app]) ≠ .reset cs) ∧ t.rdata = 0x333333 :=
  ⟨_, rfl, nofun, by decide⟩

theorem witness_FrameDeterminesItsPixels :
    encodeColor Params.tc0 0x00FF00 = encodeColor Params.tc0 (rgb 0 255 0) ∧
    frame Params.tc0 (fun _ => 0xFFFFFF) 1 = frame Params.tc0 (fun i => if i = 0 then 0xFFFFFF else 0)
      1 := by decide

theorem witness_FramePositionFormula : 2 < 3 ∧ 7 < 8 := by decide

theorem witness_FrameReadsOnlyItsPixels :
    (∀ i, i < 1 → (fun _ => 0xFFFFFF : Nat → Color) i =
      (fun i => if i = 0 then 0xFFFFFF else 0 : Nat → Color) i) ∧
    ∃ t, exec (.refresh 3) (sample [] []) = .next t :=
  ⟨by decide, ⟨_, rfl⟩⟩

theorem witness_SamePixelsGiveTheSameFrame :
    effectiveCount (sample [] []).cfg.toParams 3 = some 3 ∧
    effectiveCount (sample [] []).cfg.toParams 4 = some 3 ∧
    (sample [] []).stage.wf = true ∧ (sample [] []).busy = false ∧
    (∃ t, exec (.refresh 3) (sample [] []) = .next t) ∧
    ∃ t, exec (.refresh 4) (sample [] []) = .next t :=
  ⟨by decide, by decide, rfl, rfl, ⟨_, rfl⟩, ⟨_, rfl⟩⟩

theorem witness_RefreshStartsTheTransfer :
    (sample [] []).inIrq = false ∧ (sample [] []).agents.initDone = true ∧
    (sample [] []).busy = false ∧ (sample [] []).stage.wf = true ∧
    0 ≤ (sample [] []).cfg.ledCount ∧ 3 ≤ (sample [] []).cfg.ledCount ∧
    (sample [] []).cfg.oversize = .clamp := by decide

theorem witness_OversizedCountFollowsThePolicy :
    (sample [] []).cfg.ledCount < 4 ∧ (sample [] []).cfg.oversize = .clamp ∧
    (rejecting true).cfg.ledCount < 4 ∧ (rejecting true).cfg.oversize = .reject ∧
    (rejecting true).agents.initDone = true ∧ (rejecting true).inIrq = false ∧
    (sample [] []).stage.wf = true ∧ (sample [] []).dmaCnt < 2 ^ (sample [] []).cfg.lenWidth ∧
    ∃ t, exec (.refresh 4) (sample [] []) = .next t :=
  ⟨by decide, by decide, by decide, by decide, rfl, rfl, rfl, by decide, ⟨_, rfl⟩⟩

theorem witness_HeldRefreshChangesNothing :
    nextTurn (moving [0x0400000300000000] [.app]) = .app ∧
    decode 0x0400000300000000 = .command (.refresh 3) ∧
    effectiveCount (moving [0x0400000300000000] [.app]).cfg.toParams 3 = some 3 ∧
    (moving [0x0400000300000000] [.app]).agents.initDone = true ∧
    (moving [0x0400000300000000] [.app]).busy = true := by decide

theorem witness_StagingIsNotWrittenWhileBusy :
    ∃ t, (handling [] [.irq]).busy = true ∧ step (handling [] [.irq]) = .next t ∧
      (∀ cs, nextTurn (handling [] [.irq]) ≠ .reset cs) ∧ t.busy = false :=
  ⟨_, rfl, rfl, nofun, by decide⟩

theorem witness_BusyHasTwoWriters :
    (∃ t, step (sample [0x0400000300000000] [.app]) = .next t ∧
      t.busy ≠ (sample [0x0400000300000000] [.app]).busy) ∧
    ∃ t, step (handling [] [.irq]) = .next t ∧ t.busy ≠ (handling [] [.irq]).busy :=
  ⟨⟨_, rfl, by decide⟩, ⟨_, rfl, by decide⟩⟩

theorem witness_RefreshBeforeInitIsRefused : State.reset.agents.initDone = false := rfl

theorem witness_NoAgentStepsInsideARefresh :
    BlockInv (sample [] []) ∧ (sample [] []).inIrq = false ∧
    (sample [] []).agents.initDone = true ∧ (sample [] []).busy = false ∧
    effectiveCount (sample [] []).cfg.toParams 3 = some 3 :=
  ⟨sample_inv _ _, rfl, rfl, rfl, by decide⟩

theorem witness_CompleteReleasesAndReturns :
    (handling [] []).inIrq = true ∧ (handling [] []).busy = true := by decide

theorem witness_SpuriousCompleteFaults :
    { sample [] [] with inIrq := true }.inIrq = true ∧
    { sample [] [] with inIrq := true }.busy = false := by decide

theorem witness_RefreshAfterCompletePerformsAtOnce :
    ∃ t, (handling [0x0400000300000000] [.app]).inIrq = true ∧
      (handling [0x0400000300000000] [.app]).busy = true ∧
      (handling [0x0400000300000000] [.app]).stage.wf = true ∧
      (handling [0x0400000300000000] [.app]).agents.appStopped = false ∧
      (handling [0x0400000300000000] [.app]).agents.initDone = true ∧
      decode 0x0400000300000000 = .command (.refresh 3) ∧
      effectiveCount (handling [0x0400000300000000] [.app]).cfg.toParams 3 = some 3 ∧
      nextTurn (handling [0x0400000300000000] [.app]) = .app ∧
      exec .complete (handling [0x0400000300000000] [.app]) = .next t :=
  ⟨_, rfl, rfl, rfl, rfl, rfl, by decide, by decide, rfl, rfl⟩

theorem witness_DmaStepMovesOneByte :
    BlockInv (moving [] [.dma]) ∧ nextTurn (moving [] [.dma]) = .dma ∧
    (moving [] [.dma]).chEn = true ∧ 0 < (moving [] [.dma]).dmaCnt :=
  ⟨moving_inv _ _, rfl, rfl, by decide⟩

theorem witness_NotificationEndsTheMoving :
    ∃ t, step { moving [] [.dma] with dmaCnt := 1, dmaPtr := 73 } = .next t ∧
      { moving [] [.dma] with dmaCnt := 1, dmaPtr := 73 }.tcPend = false ∧ t.tcPend = true :=
  ⟨_, rfl, rfl, by decide⟩

/-- The invariant holds of the state of `witness_NotificationEndsTheMoving`. -/
theorem witness_NotificationEndsTheMoving_inv :
    BlockInv { moving [] [.dma] with dmaCnt := 1, dmaPtr := 73 } :=
  { moving_inv [] [.dma] with
    idle := nofun
    pending := nofun
    handling := nofun
    disabled := nofun
    length := fun _ => ⟨3, (by decide : 3 ≤ 3), (by decide : 73 + 1 = 3 * 24 + 2)⟩
    in_flight := fun _ => .inl (by decide : 0 < 1) }

theorem witness_InterruptEntryTakesTheNotification :
    nextTurn (notified [.entry]) = .entry ∧ (notified [.entry]).tcPend = true ∧
    (notified [.entry]).inIrq = false := by decide

theorem witness_IrqStepPerformsComplete :
    BlockInv (handling [] [.irq]) ∧ HandlerReady (handling [] [.irq]) ∧
    nextTurn (handling [] [.irq]) = .irq :=
  ⟨handling_inv _ _, handler_ready_sample _ _, rfl⟩

theorem witness_OneAgentCarriesTheTransfer :
    BlockInv (moving [] []) ∧ HandlerReady (moving [] []) ∧ (moving [] []).busy = true ∧
    (moving [] []).agents.initDone = true ∧ (moving [] []).agents.irqStopped = false :=
  ⟨moving_inv _ _, handler_ready_sample _ _, rfl, rfl, rfl⟩

/-- A REFRESH at the port, held and not held, with no turn chosen yet. -/
theorem witness_OneAgentCarriesTheTransfer_refresh :
    BlockInv (moving [0x0400000300000000] []) ∧ HandlerReady (moving [0x0400000300000000] []) ∧
    BlockInv (sample [0x0400000300000000] []) ∧ HandlerReady (sample [0x0400000300000000] []) ∧
    (sample [0x0400000300000000] []).agents.initDone = true ∧
    (sample [0x0400000300000000] []).agents.appStopped = false ∧
    decode 0x0400000300000000 = .command (.refresh 3) ∧
    effectiveCount (sample [] []).cfg.toParams 3 = some 3 :=
  ⟨moving_inv _ _, handler_ready_sample _ _, sample_inv _ _, handler_ready_sample _ _, rfl, rfl,
    by decide, by decide⟩

theorem witness_TransferRunsToCompletion :
    BlockInv (moving [] [.dma, .dma, .entry, .irq]) ∧
    HandlerReady (moving [] [.dma, .dma, .entry, .irq]) ∧
    0 < (moving [] [.dma, .dma, .entry, .irq]).dmaCnt ∧
    (moving [] [.dma, .dma, .entry, .irq]).agents.schedule =
      List.replicate (moving [] [.dma, .dma, .entry, .irq]).dmaCnt .dma ++ [.entry, .irq] :=
  ⟨moving_inv _ _, handler_ready_sample _ _, by decide, by decide⟩

theorem witness_EmptyRefreshSendsOnlyTheGap :
    BlockInv (sample [0x0400000000000000] [.app, .dma, .dma, .entry, .irq]) ∧
    HandlerReady (sample [0x0400000000000000] [.app, .dma, .dma, .entry, .irq]) ∧
    [0x0400000000000000] = [encode (.refresh 0)] ∧
    (sample [] []).cfg.resetBytes = 2 ∧ (sample [] []).agents.appStopped = false :=
  ⟨sample_inv _ _, handler_ready_sample _ _, by decide, rfl, rfl⟩

theorem witness_FaultStopsOnlyItsIssuer :
    (∃ t, step (sample [0x0300000300000000] [.app]) = .next t ∧ t.agents.appStopped = true) ∧
    ∃ t, nextTurn (moving [] [.dma]) = .dma ∧ step (moving [] [.dma]) = .next t :=
  ⟨⟨_, rfl, by decide⟩, ⟨_, rfl, rfl⟩⟩

theorem witness_FaultBitsAreSticky :
    ∃ t, step (sample [0x0300000300000000] [.app]) = .next t ∧
      (∀ cs, nextTurn (sample [0x0300000300000000] [.app]) ≠ .reset cs) ∧
      t.fault ≠ (sample [0x0300000300000000] [.app]).fault :=
  ⟨_, rfl, nofun, by decide⟩

theorem witness_StoppedAgentMeansRecordedFault :
    (State.reset.fault ≠ 0 ↔
      State.reset.agents.appStopped = true ∨ State.reset.agents.irqStopped = true) := by decide

theorem witness_reset_input : nextTurn (moving [] [.reset []]) = .reset [] := rfl

/-- TC0 with `RESET_ZERO_FILL = true`, at a reset turn. -/
theorem witness_reset_input_zero_fill :
    nextTurn { moving [] [.reset []] with
      cfg := { { Params.tc0 with resetZeroFill := true } with ok := by decide } } = .reset [] ∧
    { Params.tc0 with resetZeroFill := true }.resetZeroFill = true := ⟨rfl, rfl⟩

/-- The turns of agents that have no step. -/
theorem witness_agents_without_a_step :
    (BlockInv (sample [] [.dma]) ∧ nextTurn (sample [] [.dma]) = .dma ∧
      dmaEnabled (sample [] [.dma]) = false) ∧
    (nextTurn (sample [] [.entry]) = .entry ∧ entryEnabled (sample [] [.entry]) = false) ∧
    BlockInv (sample [] [.irq]) ∧ HandlerReady (sample [] [.irq]) ∧
      (sample [] [.irq]).inIrq = false :=
  ⟨⟨sample_inv _ _, rfl, rfl⟩, ⟨rfl, rfl⟩, sample_inv _ _, handler_ready_sample _ _, rfl⟩

theorem witness_StepKeepsTheInvariant :
    ∃ t, BlockInv (moving [] [.dma]) ∧ step (moving [] [.dma]) = .next t ∧
      (moving [] [.dma]).agents.initDone = true :=
  ⟨_, moving_inv _ _, rfl, rfl⟩

theorem witness_WireIsTheFramesInOrder :
    ∃ t, BlockInv (sample [0x0400000300000000] [.app]) ∧
      WireIsFrames [] (sample [0x0400000300000000] [.app]) ∧
      step (sample [0x0400000300000000] [.app]) = .next t ∧
      (framesAfter [] (sample [0x0400000300000000] [.app])).length = 1 :=
  ⟨_, sample_inv _ _, ⟨rfl, rfl⟩, rfl, by decide⟩

theorem witness_QuiescentMachineIsAtRest :
    quiescent (sample [] [.app]) = true ∧ nextTurn (sample [] [.app]) = .app ∧
    BlockInv (sample [] [.app]) ∧ HandlerReady (sample [] [.app]) :=
  ⟨by decide, rfl, sample_inv _ _, handler_ready_sample _ _⟩

theorem witness_CanonicalMemoryIsExtensional :
    Memory.wf ([(0, 0x11), (5, 0x22)] : Memory 8) = true ∧
    (∀ k, Memory.read ([(0, 0x11), (5, 0x22)] : Memory 8) k =
      Memory.read (Memory.write (Memory.write [] 5 0x22) 0 0x11) k) :=
  ⟨by decide, fun _ => rfl⟩

end Sys2Proof.Tests
end

section
/-! The family of 00_scope.md: arrays in canonical form, what a turn does where its agent has a
command or has no step, and the checks of the configuration. -/

namespace Sys2Proof.Machine

/-! ## Arrays in canonical form (R17) -/

namespace Memory

variable {w : Nat}

theorem wfFrom_cons_iff {lo a : Nat} {v : BitVec w} {rest : Memory w} :
    Memory.wfFrom lo ((a, v) :: rest) = true ↔
      lo ≤ a ∧ v ≠ unlisted w ∧ Memory.wfFrom (a + 1) rest = true := by
  simp [Memory.wfFrom, and_assoc]

theorem read_cons_self (a : Nat) (v : BitVec w) (rest : Memory w) :
    Memory.read ((a, v) :: rest) a = v := if_pos rfl

theorem read_cons_of_ne {a k : Nat} (h : k ≠ a) (v : BitVec w) (rest : Memory w) :
    Memory.read ((a, v) :: rest) k = Memory.read rest k := if_neg h

/-- Arrays that read the same have no later first index than each other. -/
theorem head_le_of_read_eq {a b : Nat} {v u : BitVec w} {m n : Memory w}
    (hv : v ≠ unlisted w) (hn : Memory.wfFrom (b + 1) n = true)
    (heq : ∀ k, Memory.read ((a, v) :: m) k = Memory.read ((b, u) :: n) k) : b ≤ a := by
  by_contra hlt
  have hab : a ≠ b := by omega
  have hread : n.read a = v := by
    rw [← read_cons_of_ne hab u n, ← heq, read_cons_self]
  exact hv (hread.symm.trans (read_below hn (by omega)))

/-- Canonical arrays that read the same at every index are the same list. -/
theorem ext_of_wfFrom {lo : Nat} {m n : Memory w} (hm : Memory.wfFrom lo m = true)
    (hn : Memory.wfFrom lo n = true) (heq : ∀ k, m.read k = n.read k) : m = n := by
  induction m generalizing lo n with
  | nil =>
    cases n with
    | nil => rfl
    | cons cell n =>
      obtain ⟨b, u⟩ := cell
      obtain ⟨-, hu, -⟩ := wfFrom_cons_iff.1 hn
      exact absurd ((heq b).trans (read_cons_self b u n)).symm hu
  | cons cell m ih =>
    obtain ⟨a, v⟩ := cell
    obtain ⟨-, hv, hm'⟩ := wfFrom_cons_iff.1 hm
    cases n with
    | nil => exact absurd ((read_cons_self a v m).symm.trans (heq a)) hv
    | cons cell n =>
      obtain ⟨b, u⟩ := cell
      obtain ⟨-, hu, hn'⟩ := wfFrom_cons_iff.1 hn
      obtain rfl : a = b := le_antisymm
        (head_le_of_read_eq hu hm' fun k => (heq k).symm) (head_le_of_read_eq hv hn' heq)
      obtain rfl : v = u := by simpa only [read_cons_self] using heq a
      have htail (k : Nat) : Memory.read m k = Memory.read n k := by
        by_cases hk : k = a
        · rw [read_below hm' (by omega), read_below hn' (by omega)]
        · simpa only [read_cons_of_ne hk] using heq k
      rw [ih hm' hn' htail]

end Memory

/-! ## A turn of an agent that has a command (R76, R78, R176) -/

theorem step_eq {s : State} {t : Turn} (h : nextTurn s = t) :
    step s = turnStep t (takeTurn s) := by
  rw [step, h]

theorem issue_command {w : Word} {i : Instr} (h : decode w = .command i) (s : State) :
    issue w s = exec i s := by
  simp only [issue, h]

theorem wordHeld_command {w : Word} {i : Instr} (h : decode w = .command i) (s : State) :
    wordHeld w s = commandHeld i s := by
  simp only [wordHeld, h]

/-- Whether a command waits does not depend on the turn's bookkeeping. -/
@[simp] theorem commandHeld_takeTurn (i : Instr) (s : State) :
    commandHeld i (takeTurn s) = commandHeld i s := by
  cases i <;> rfl

theorem appStep_command {s : State} {w : Word} {rest : List Word} {i : Instr}
    (hs : s.agents.stream = w :: rest) (hmay : appMayIssue s = true)
    (hd : decode w = .command i) (hfree : commandHeld i s = false) :
    appStep s = exec i (popCommand s) := by
  simp [appStep, hs, hmay, wordHeld_command hd, hfree, issue_command hd]

theorem irqStep_command {s : State} {i : Instr} (hmay : irqMayIssue s = true)
    (hd : decode s.agents.handlerWord = .command i) : irqStep s = exec i s := by
  rw [irqStep, if_pos hmay, issue_command hd]

/-! ## A turn of an agent that has no step (R19) -/

theorem appStep_of_not_enabled {s : State} (h : appEnabled s = false) : appStep s = .next s := by
  unfold appEnabled at h
  cases hs : s.agents.stream with
  | nil => simp only [appStep, hs]
  | cons w rest =>
    have hno : (appMayIssue s && !wordHeld w s) = false := by simpa only [hs] using h
    simp [appStep, hs, hno]

theorem irqStep_of_not_enabled {s : State} (h : irqMayIssue s = false) :
    irqStep s = .next s := by
  simp [irqStep, h]

theorem entryStep_of_not_enabled {s : State} (h : entryEnabled s = false) :
    entryStep s = .next s := by
  simp [entryStep, h]

theorem dmaStep_of_not_enabled {s : State} (h : dmaEnabled s = false) :
    dmaStep s = .next s := by
  simp [dmaStep, h]

theorem quiescent_iff (s : State) : quiescent s = true ↔
    appEnabled s = false ∧ irqMayIssue s = false ∧ entryEnabled s = false ∧
      dmaEnabled s = false := by
  simp [quiescent, and_assoc]

/-- Which agents have a step does not depend on the turn's bookkeeping. -/
@[simp] theorem quiescent_takeTurn (s : State) : quiescent (takeTurn s) = quiescent s := rfl

/-- Where no agent can step, the turn of an agent leaves the state as it is. -/
theorem turnStep_of_quiescent {s : State} {t : Turn} (h : quiescent s = true)
    (ht : t = .app ∨ t = .irq ∨ t = .entry ∨ t = .dma) : turnStep t s = .next s := by
  obtain ⟨happ, hirq, hentry, hdma⟩ := (quiescent_iff s).1 h
  rcases ht with rfl | rfl | rfl | rfl
  · exact appStep_of_not_enabled happ
  · exact irqStep_of_not_enabled hirq
  · exact entryStep_of_not_enabled hentry
  · exact dmaStep_of_not_enabled hdma

/-- R38: a channel with bytes left to move is enabled, so the DMA agent has a step. -/
theorem BlockInv.dmaEnabled {s : State} (inv : BlockInv s) (h : 0 < s.dmaCnt) :
    dmaEnabled s = true := by
  cases hc : s.chEn with
  | false => exact absurd (inv.disabled hc).1 h.ne'
  | true => simp [Machine.dmaEnabled, hc, h]

/-- R39: a transfer in flight is moved, pending or handled, and then the DMA agent, ENTRY or IRQ has
a step. -/
theorem BlockInv.busy_of_quiescent {s : State} (inv : BlockInv s) (hready : HandlerReady s)
    (h : quiescent s = true) : s.busy = false := by
  obtain ⟨-, hirq, hentry, hdma⟩ := (quiescent_iff s).1 h
  obtain ⟨-, hrun⟩ := hready
  have hthread : s.inIrq = false := by simpa [irqMayIssue, hrun] using hirq
  have hpend : s.tcPend = false := by simpa [entryEnabled, hthread] using hentry
  by_contra hbusy
  rcases inv.in_flight (Bool.eq_true_of_not_eq_false hbusy) with hcnt | hp | hi
  · simp [inv.dmaEnabled hcnt] at hdma
  · simp [hpend] at hp
  · simp [hthread] at hi

/-! ## The checks of the configuration (R7 to R11) -/

theorem ledCount_le (cfg : Config) : cfg.ledCount ≤ 2 ^ 24 - 1 := by
  have h := cfg.ok
  simp only [Params.wf, Bool.and_eq_true, decide_eq_true_eq] at h
  obtain ⟨⟨⟨⟨⟨-, hle⟩, -⟩, -⟩, -⟩, -⟩ := h
  exact hle

theorem symbolsOk (cfg : Config) : cfg.symbolsOk = true := by
  have h := cfg.ok
  simp only [Params.wf, Bool.and_eq_true] at h
  obtain ⟨⟨⟨-, hs⟩, -⟩, -⟩ := h
  exact hs

/-- A pulse length that is found is the length of the byte's pulse. -/
theorem shiftBits_of_pulseLength {order : ShiftOrder} {b : Byte} {h : Nat}
    (hp : pulseLength order b = some h) : shiftBits order b = pulse h :=
  beq_iff_eq.1 (List.find?_some (p := fun h => shiftBits order b == pulse h) hp)

/-- R9(b): both symbols are pulses, the one of `SYMBOL_ONE` the longer. -/
theorem symbols_are_pulses (cfg : Config) : ∃ h0 h1, 1 ≤ h0 ∧ h0 < h1 ∧ h1 ≤ 7 ∧
    shiftBits cfg.shiftOrder cfg.symbolZero = pulse h0 ∧
    shiftBits cfg.shiftOrder cfg.symbolOne = pulse h1 := by
  have hok := symbolsOk cfg
  unfold Params.symbolsOk at hok
  split at hok
  · next h0 h1 hzero hone =>
    simp only [Bool.and_eq_true, decide_eq_true_eq] at hok
    obtain ⟨-, ⟨hpos, hlt⟩, hle⟩ := hok
    exact ⟨h0, h1, hpos, hlt, hle, shiftBits_of_pulseLength hzero, shiftBits_of_pulseLength hone⟩
  · simp at hok

end Sys2Proof.Machine

/-! ## The statements -/

namespace Sys2Proof.Proofs

open Sys2Proof Sys2Proof.Machine

/-- Settles O60, by induction on the two lists: the first indices agree because an index below an
array's first one reads as unlisted, which no listed entry does. -/
theorem canonicalMemoryIsExtensional : Obligations.CanonicalMemoryIsExtensional :=
  fun _ _ _ hm hn heq => Memory.ext_of_wfFrom hm hn heq

/-- Settles O57: the turn's agent has no step after the turn is taken either, and a transfer in flight
would give the DMA agent, ENTRY or IRQ one. -/
theorem quiescentMachineIsAtRest : Obligations.QuiescentMachineIsAtRest := by
  intro s hq
  refine ⟨fun hturn => turnStep_of_quiescent ((quiescent_takeTurn s).trans hq) hturn, ?_⟩
  intro inv hready
  have hbusy := inv.busy_of_quiescent hready hq
  obtain ⟨hcnt, hpend, hthread⟩ := inv.idle hbusy
  exact ⟨hbusy, hpend, hthread, hcnt⟩

/-- Settles O8: the issuing agent's turn is `exec` of its command once the turn is taken, and APP's
word has then left the port. -/
theorem stepRunsTheDecodedCommand : Obligations.StepRunsTheDecodedCommand := by
  constructor
  · intro s w rest i hturn hthread hrun hs hd hfree
    have hmay : appMayIssue (takeTurn s) = true := by simp [appMayIssue, hthread, hrun]
    calc step s = appStep (takeTurn s) := step_eq hturn
      _ = exec i (popCommand (takeTurn s)) :=
        appStep_command (w := w) (rest := rest) hs hmay hd ((commandHeld_takeTurn i s).trans hfree)
      _ = _ := by simp [popCommand, takeTurn, hs]
  · intro s i hturn hinterrupt hrun hd
    have hmay : irqMayIssue (takeTurn s) = true := by simp [irqMayIssue, hinterrupt, hrun]
    exact (step_eq hturn).trans (irqStep_command hmay hd)

/-- Settles O30, from the check that a configuration carries. -/
theorem configurationIsWellFormed : Obligations.ConfigurationIsWellFormed := fun s =>
  ⟨one_le_ledCount s.cfg, ledCount_le s.cfg, one_le_resetBytes s.cfg,
    symbolZero_ne_symbolOne s.cfg, symbols_are_pulses s.cfg, (idleByte_ne s.cfg).1,
    (idleByte_ne s.cfg).2, Nat.le_sub_one_of_lt (stageLength_lt s.cfg)⟩

end Sys2Proof.Proofs
end

section
/-! The family of 10_state.md: the invariant of R35 to R39 through every operation, which elements of
the state a step writes, and the agent that carries a transfer in flight. -/

namespace Sys2Proof.Machine

/-! ## The invariant through each operation (R35 to R39) -/

theorem extractLsb'_recordFault (f : BitVec 8) (code : FaultCode) :
    (recordFault f code).extractLsb' 5 3 = f.extractLsb' 5 3 := by
  have hbit : (faultBit code).extractLsb' 5 3 = 0 := by cases code <;> rfl
  rw [recordFault, BitVec.extractLsb'_or, hbit]
  exact BitVec.or_zero

/-- A frame of the strip fits `STAGE` (R11, R23). -/
theorem length_frame_le {p : Params} {c : Nat} (h : c ≤ p.ledCount) (pixel : Nat → Color) :
    (frame p pixel c).length ≤ stageLength p :=
  (length_frame p pixel c).trans_le (transferLength_le h)

theorem transferLength_pos (cfg : Config) (c : Nat) : 0 < transferLength cfg.toParams c :=
  Nat.add_pos_right _ (one_le_resetBytes cfg)

section
variable {s : State} (inv : BlockInv s)
include inv

/-- The invariant speaks of no agent's state. -/
theorem BlockInv.of_agents (a : Agents) : BlockInv { s with agents := a } := { inv with }

theorem BlockInv.of_raiseFault (code : FaultCode) : BlockInv (raiseFault code s) :=
  { inv with fault_reserved := (extractLsb'_recordFault _ _).trans inv.fault_reserved }

theorem BlockInv.of_pixWrite {k : Nat} (hk : k < s.cfg.ledCount) (c : Color) :
    BlockInv (pixWrite k c s) :=
  { inv with
    pix_wf := Memory.wf_write inv.pix_wf
    pix_within := Memory.within_write hk inv.pix_within }

theorem BlockInv.of_pixFill (c : Color) : BlockInv (pixFill c s) :=
  { inv with
    pix_wf := Memory.wf_writeList inv.pix_wf
    pix_within := Memory.within_writeList (by simp) inv.pix_within }

theorem BlockInv.of_respond (c : Color) : BlockInv (respond c s) := { inv with }

theorem BlockInv.of_startTransfer {c : Nat} (hidle : s.busy = false) (hc : c ≤ s.cfg.ledCount) :
    BlockInv (startTransfer c s) := by
  obtain ⟨-, hpend, hthread⟩ := inv.idle hidle
  have hlength : (startTransfer c s).dmaCnt = transferLength s.cfg.toParams c :=
    fitCounter_transferLength hc
  exact
    { inv with
      stage_wf := Memory.wf_writeList inv.stage_wf
      stage_within := Memory.within_writeList
        ((Nat.zero_add _).trans_le (length_frame_le hc _)) inv.stage_within
      idle := nofun
      pending := fun h => absurd (hpend.symm.trans h) (by decide)
      handling := fun h => absurd (hthread.symm.trans h) (by decide)
      disabled := nofun
      length := fun _ => ⟨c, hc, (Nat.zero_add _).trans hlength⟩
      in_flight := fun _ => .inl (hlength ▸ transferLength_pos s.cfg c) }

theorem BlockInv.of_release (h : s.inIrq = true) :
    BlockInv (returnFromInterrupt (releaseBusy s)) := by
  obtain ⟨-, hcnt, hpend⟩ := inv.handling h
  exact
    { inv with
      idle := fun _ => ⟨hcnt, hpend, rfl⟩
      pending := fun h => absurd (hpend.symm.trans h) (by decide)
      handling := nofun
      disabled := fun hen => ⟨hcnt, (inv.disabled hen).2.1, rfl⟩
      in_flight := nofun }

theorem BlockInv.of_enterInterrupt (h : s.tcPend = true) : BlockInv (enterInterrupt s) := by
  obtain ⟨hbusy, hcnt, -⟩ := inv.pending h
  exact
    { inv with
      idle := fun h => absurd (hbusy.symm.trans h) (by decide)
      pending := nofun
      handling := fun _ => ⟨hbusy, hcnt, rfl⟩
      in_flight := fun _ => .inr (.inr rfl) }

/-- R36, R37, R38: a transfer that is still being moved is in flight, enabled, and neither pending nor
handled. -/
theorem BlockInv.moving (h : 0 < s.dmaCnt) :
    s.busy = true ∧ s.chEn = true ∧ s.tcPend = false ∧ s.inIrq = false := by
  refine ⟨?_, ?_, ?_, ?_⟩
  · by_contra hb
    exact h.ne' (inv.idle (Bool.eq_false_of_not_eq_true hb)).1
  · by_contra he
    exact h.ne' (inv.disabled (Bool.eq_false_of_not_eq_true he)).1
  · by_contra hp
    exact h.ne' (inv.pending (Bool.eq_true_of_not_eq_false hp)).2.1
  · by_contra hi
    exact h.ne' (inv.handling (Bool.eq_true_of_not_eq_false hi)).2.1

theorem BlockInv.of_moveByte (h : 0 < s.dmaCnt) (b : Byte) : BlockInv (moveByte b s) := by
  obtain ⟨hbusy, hen, hpend, hthread⟩ := inv.moving h
  obtain ⟨c, hc, hlength⟩ := inv.length hen
  refine
    { inv with
      idle := fun h => absurd (hbusy.symm.trans h) (by decide)
      pending := fun hp => ⟨hbusy, ?_, hthread⟩
      handling := fun h => absurd (hthread.symm.trans h) (by decide)
      disabled := fun h => absurd (hen.symm.trans h) (by decide)
      length := fun _ => ⟨c, hc, ?_⟩
      in_flight := fun _ => ?_ }
  · by_contra hcnt
    simp only [moveByte_dmaCnt] at hcnt
    simp [pendingAfter, hcnt, hpend] at hp
  · simp only [moveByte_dmaPtr, moveByte_dmaCnt, moveByte_cfg, ← hlength]
    omega
  · by_cases hcnt : s.dmaCnt - 1 = 0
    · exact .inr (.inl (if_pos hcnt))
    · exact .inl (Nat.pos_of_ne_zero hcnt)

theorem BlockInv.of_commandEffect {i : Instr} {t : State} (h : CommandEffect i s t) :
    BlockInv t := by
  cases h with
  | nothing => exact inv
  | faulted code => exact inv.of_raiseFault code
  | wroteEntry k c _ _ hk => exact inv.of_pixWrite hk c
  | filled c => exact inv.of_pixFill c
  | responded => exact inv.of_respond _
  | started n c _ _ _ hc idle => exact inv.of_startTransfer idle (effectiveCount_le hc)
  | released _ interrupt => exact inv.of_release interrupt

theorem BlockInv.of_issueEffect {w : Word} {t : State} (h : IssueEffect w s t) : BlockInv t := by
  cases h with
  | command i _ h => exact inv.of_commandEffect h
  | rejected code => exact inv.of_raiseFault code

end

/-- Reset establishes the invariant whatever held before (R200, R201). -/
theorem blockInv_resetBlock (pixel : Nat → Color) (staged : Nat → Byte) (rdata : Color)
    (commands : List Word) (s : State) : BlockInv (resetBlock pixel staged rdata commands s) where
  pix_wf := Memory.wf_ofFn _ _
  pix_within := Memory.within_ofFn _ _
  stage_wf := Memory.wf_ofFn _ _
  stage_within := Memory.within_ofFn _ _
  idle := fun _ => ⟨rfl, rfl, rfl⟩
  pending := nofun
  handling := nofun
  disabled := fun _ => ⟨rfl, rfl, rfl⟩
  length := nofun
  in_flight := nofun
  fault_reserved := BitVec.extractLsb'_zero

/-- The machine right after reset is what a reset with zero values makes of it (log entry 4). -/
theorem reset_eq_resetBlock :
    State.reset = resetBlock (fun _ => 0) (fun _ => 0) 0 [] State.reset := rfl

theorem blockInv_reset : BlockInv State.reset :=
  reset_eq_resetBlock ▸ blockInv_resetBlock _ _ _ _ _

theorem entryEnabled_iff (s : State) :
    entryEnabled s = true ↔ s.tcPend = true ∧ s.inIrq = false := by
  simp [entryEnabled]

theorem dmaEnabled_iff (s : State) : dmaEnabled s = true ↔ s.chEn = true ∧ 0 < s.dmaCnt := by
  simp [dmaEnabled]

theorem BlockInv.of_step {s t : State} (inv : BlockInv s) (h : step s = .next t) :
    BlockInv t := by
  have taken : BlockInv (takeTurn s) := inv.of_agents _
  cases step_effect h with
  | nothing => exact taken
  | app _ _ _ _ _ _ ht => exact BlockInv.of_issueEffect (taken.of_agents _) ht
  | irq _ _ ht => exact taken.of_issueEffect ht
  | entry _ enabled => exact taken.of_enterInterrupt ((entryEnabled_iff s).1 enabled).1
  | dma _ enabled => exact taken.of_moveByte ((dmaEnabled_iff s).1 enabled).2 _
  | init => exact taken.of_agents _
  | reset => exact blockInv_resetBlock _ _ _ _ _

/-! ## Which elements of the state a word at the port writes -/

theorem appMayIssue_iff (s : State) :
    appMayIssue s = true ↔ s.inIrq = false ∧ s.agents.appStopped = false := by
  simp [appMayIssue]

theorem irqMayIssue_iff (s : State) :
    irqMayIssue s = true ↔ s.inIrq = true ∧ s.agents.irqStopped = false := by
  simp [irqMayIssue]

theorem not_interrupt_of_appMayIssue {s : State} (h : appMayIssue s = true) :
    s.inIrq ≠ true := by
  simp [((appMayIssue_iff s).1 h).1]

theorem not_thread_of_irqMayIssue {s : State} (h : irqMayIssue s = true) : s.inIrq ≠ false := by
  simp [((irqMayIssue_iff s).1 h).1]

theorem IssueEffect.cfg_eq {w : Word} {s t : State} (h : IssueEffect w s t) : t.cfg = s.cfg := by
  cases h with
  | command i _ h => cases h <;> rfl
  | rejected => rfl

theorem IssueEffect.wire_eq {w : Word} {s t : State} (h : IssueEffect w s t) :
    t.wire = s.wire := by
  cases h with
  | command i _ h => cases h <;> rfl
  | rejected => rfl

/-- R22: only SETPIXEL and FILLALL write `PIX`. -/
theorem IssueEffect.pix_cases {w : Word} {s t : State} (h : IssueEffect w s t) :
    t.pix = s.pix ∨ s.inIrq = false ∧
      ((∃ k c, decode w = .command (.setpixel k c) ∧ t.pix = s.pix.write k c) ∨
        ∃ c, decode w = .command (.fillall c) ∧ t.pix = (pixFill c s).pix) := by
  cases h with
  | rejected => exact .inl rfl
  | command i hd h =>
    cases h with
    | wroteEntry k c hi thread => exact .inr ⟨thread, .inl ⟨k, c, hi ▸ hd, rfl⟩⟩
    | filled c hi thread => exact .inr ⟨thread, .inr ⟨c, hi ▸ hd, rfl⟩⟩
    | _ => exact .inl rfl

/-- R32, R78: only GETPIXEL writes `RDATA` and responds. -/
theorem IssueEffect.rdata_cases {w : Word} {s t : State} (h : IssueEffect w s t) :
    (t.rdata = s.rdata ∧ t.responses = s.responses) ∨ s.inIrq = false ∧
      ∃ k, decode w = .command (.getpixel k) ∧ k < s.cfg.ledCount ∧ t.rdata = pixRead s k ∧
        t.responses = s.responses ++ [pixRead s k] := by
  cases h with
  | rejected => exact .inl ⟨rfl, rfl⟩
  | command i hd h =>
    cases h with
    | responded k hi thread hk => exact .inr ⟨thread, k, hi ▸ hd, hk, rfl, rfl⟩
    | _ => exact .inl ⟨rfl, rfl⟩

/-- R24: only REFRESH sets `BUSY`, and only COMPLETE clears it. -/
theorem IssueEffect.busy_cases {w : Word} {s t : State} (h : IssueEffect w s t) :
    t.busy = s.busy ∨
    (t.busy = true ∧ s.inIrq = false ∧ ∃ n, decode w = .command (.refresh n)) ∨
    (t.busy = false ∧ s.inIrq = true ∧ t.inIrq = false ∧ decode w = .command .complete) := by
  cases h with
  | rejected => exact .inl rfl
  | command i hd h =>
    cases h with
    | started n c hi thread => exact .inr (.inl ⟨rfl, thread, n, hi ▸ hd⟩)
    | released hi interrupt => exact .inr (.inr ⟨rfl, interrupt, rfl, hi ▸ hd⟩)
    | _ => exact .inl rfl

/-- R30: `FAULT` is written only where a fault is raised. -/
theorem IssueEffect.fault_cases {w : Word} {s t : State} (h : IssueEffect w s t) :
    t.fault = s.fault ∨ ∃ code, t = raiseFault code s := by
  cases h with
  | rejected code => exact .inr ⟨code, rfl⟩
  | command i _ h =>
    cases h with
    | faulted code => exact .inr ⟨code, rfl⟩
    | _ => exact .inl rfl

theorem getLsbD_recordFault_of {f : BitVec 8} {b : Nat} (h : f.getLsbD b = true)
    (code : FaultCode) : (recordFault f code).getLsbD b = true := by
  simp [recordFault, h]

/-- R170: raising a fault stops an agent. -/
theorem stopped_stopIssuer (inIrq : Bool) (a : Agents) :
    (stopIssuer inIrq a).appStopped = true ∨ (stopIssuer inIrq a).irqStopped = true := by
  cases inIrq
  · exact .inl rfl
  · exact .inr rfl

/-- R30, R170: a word at the port clears no fault bit, and stops an agent where it records one. -/
theorem IssueEffect.fault_sticky {w : Word} {s t : State} (h : IssueEffect w s t) :
    (∀ b, s.fault.getLsbD b = true → t.fault.getLsbD b = true) ∧
    (t.fault ≠ s.fault → t.agents.appStopped = true ∨ t.agents.irqStopped = true) := by
  rcases h.fault_cases with hf | ⟨code, rfl⟩
  · exact ⟨fun b hb => hf ▸ hb, fun hne => absurd hf hne⟩
  · exact ⟨fun b hb => getLsbD_recordFault_of hb code, fun _ => stopped_stopIssuer _ _⟩

/-! ## After initialisation every step answers a next state (R150, R206) -/

theorem inThread_answers {s : State} {f : State → Result} (h : ∃ t, f s = .next t) :
    ∃ t, inThread s f = .next t := by
  unfold inThread
  split
  · exact ⟨_, rfl⟩
  · exact h

theorem inInterrupt_answers {s : State} {f : State → Result} (h : ∃ t, f s = .next t) :
    ∃ t, inInterrupt s f = .next t := by
  unfold inInterrupt
  split
  · exact h
  · exact ⟨_, rfl⟩

theorem exec_answers (i : Instr) {s : State} (h : s.agents.initDone = true) :
    ∃ t, exec i s = .next t := by
  cases i with
  | setpixel k c => rw [exec, execSetpixel]; exact inThread_answers ⟨_, rfl⟩
  | fillall c => rw [exec, execFillall]; exact inThread_answers ⟨_, rfl⟩
  | getpixel k => rw [exec, execGetpixel]; exact inThread_answers ⟨_, rfl⟩
  | complete => rw [exec, execComplete]; exact inInterrupt_answers ⟨_, rfl⟩
  | refresh n =>
    rw [exec, execRefresh, if_pos h]
    refine inThread_answers ?_
    cases effectiveCount s.cfg.toParams n with
    | none => exact ⟨_, rfl⟩
    | some c => exact ⟨_, rfl⟩

theorem issue_answers (w : Word) {s : State} (h : s.agents.initDone = true) :
    ∃ t, issue w s = .next t := by
  unfold issue
  split
  · next i _ => exact exec_answers i h
  · exact ⟨_, rfl⟩

/-- R38, R150: the byte a DMA step reads is in `STAGE`. -/
theorem dmaPtr_lt_stageLength {s : State} (inv : BlockInv s) (h : dmaEnabled s = true) :
    s.dmaPtr < stageLength s.cfg.toParams := by
  obtain ⟨hen, hcnt⟩ := (dmaEnabled_iff s).1 h
  obtain ⟨c, hc, hlength⟩ := inv.length hen
  have := transferLength_le (p := s.cfg.toParams) hc
  omega

theorem appStep_answers {s : State} (h : s.agents.initDone = true) :
    ∃ t, appStep s = .next t := by
  unfold appStep
  split
  · exact ⟨_, rfl⟩
  · split
    · exact issue_answers _ h
    · exact ⟨_, rfl⟩

theorem irqStep_answers {s : State} (h : s.agents.initDone = true) :
    ∃ t, irqStep s = .next t := by
  unfold irqStep
  split
  · exact issue_answers _ h
  · exact ⟨_, rfl⟩

theorem dmaStep_of_enabled {s : State} (inv : BlockInv s) (h : dmaEnabled s = true) :
    dmaStep s = .next (moveByte (stageRead s s.dmaPtr) s) := by
  rw [dmaStep, if_pos h, if_pos (dmaPtr_lt_stageLength inv h)]

theorem entryStep_of_enabled {s : State} (h : entryEnabled s = true) :
    entryStep s = .next (enterInterrupt s) := by
  rw [entryStep, if_pos h]

theorem dmaStep_answers {s : State} (inv : BlockInv s) : ∃ t, dmaStep s = .next t := by
  cases h : dmaEnabled s with
  | true => exact ⟨_, dmaStep_of_enabled inv h⟩
  | false => exact ⟨_, dmaStep_of_not_enabled h⟩

theorem BlockInv.step_answers {s : State} (inv : BlockInv s) (h : s.agents.initDone = true) :
    ∃ t, step s = .next t := by
  unfold step
  cases nextTurn s with
  | app => exact appStep_answers h
  | irq => exact irqStep_answers h
  | dma => exact dmaStep_answers (inv.of_agents _)
  | entry => exact ⟨_, rfl⟩
  | init => exact ⟨_, rfl⟩
  | reset cs => exact ⟨_, rfl⟩

/-! ## Runs that come to a state (R188) -/

/-- The run from a state comes to one with the property. -/
inductive ComesTo (P : State → Prop) : State → Prop where
  | here {s : State} (h : P s) : ComesTo P s
  | after {s t : State} (h : step s = .next t) (rest : ComesTo P t) : ComesTo P s

theorem run_succ {s t : State} (h : step s = .next t) (n : Nat) : run (n + 1) s = run n t := by
  simp only [run, h]

theorem run_one_of_stopped {s : State} (h : ∀ t, step s ≠ .next t) (t : State) :
    run 1 s ≠ .next t := by
  intro hrun
  cases hs : step s with
  | next u => exact h u hs
  | fault r => simp [run, hs] at hrun
  | refused r => simp [run, hs] at hrun

/-- The next turn is a reset input. -/
def ResetIsNext (s : State) : Prop := ∃ cs, nextTurn s = .reset cs

theorem eventuallyOrReset_of_comesTo {P : State → Prop} {s : State}
    (h : ComesTo (fun t => P t ∨ ResetIsNext t) s) : EventuallyOrReset P s := by
  induction h with
  | here h => exact ⟨0, _, rfl, h⟩
  | after hstep _ ih =>
    obtain ⟨n, t, hrun, ht⟩ := ih
    exact ⟨n + 1, t, (run_succ hstep n).trans hrun, ht⟩

theorem ComesTo.trans {P Q : State → Prop} {s : State} (h : ComesTo P s)
    (hQ : ∀ t, P t → ComesTo Q t) : ComesTo Q s := by
  induction h with
  | here h => exact hQ _ h
  | after hstep _ ih => exact .after hstep ih

/-- Where the run comes to `P` or a reset and from `P` to `Q` or a reset, it comes to `Q` or a
reset. -/
theorem ComesTo.trans_orReset {P Q : State → Prop} {s : State}
    (h : ComesTo (fun t => P t ∨ ResetIsNext t) s)
    (hQ : ∀ t, P t → ComesTo (fun u => Q u ∨ ResetIsNext u) t) :
    ComesTo (fun t => Q t ∨ ResetIsNext t) s :=
  h.trans fun t ht => ht.elim (hQ t) fun hr => .here (.inr hr)

/-- What is left of the turns ahead, where anything is, is what is ahead next. -/
theorem turnsAhead_of_step {s t : State} {a : Turn} {rest : List Turn} (h : step s = .next t)
    (hs : turnsAhead s = a :: rest) (hne : rest ≠ []) : turnsAhead t = rest := by
  have hsched : t.agents.schedule = rest := by rw [step_schedule h, hs, List.tail_cons]
  cases rest with
  | nil => exact absurd rfl hne
  | cons b rest => exact turnsAhead_cons hsched

section
variable {P E : State → Prop} {a : Turn}
  (hit : ∀ s, P s → nextTurn s = a → E s)
  (go : ∀ s, P s → nextTurn s ≠ a → E s ∨ ∃ t, step s = .next t ∧ P t)
include hit go

/-- A turn that stands among those ahead comes, as long as the steps before it keep `P`. -/
theorem comesTo_of_mem_turnsAhead {s : State} (hs : P s) (ha : a ∈ turnsAhead s) :
    ComesTo E s := by
  generalize hl : turnsAhead s = l at ha
  induction l generalizing s with
  | nil => simp at ha
  | cons b rest ih =>
    have hnext : nextTurn s = b := by rw [nextTurn, hl, List.headD_cons]
    by_cases hab : a = b
    · exact .here (hit s hs (hnext.trans hab.symm))
    · rcases go s hs (hnext.trans_ne (Ne.symm hab)) with hE | ⟨t, hstep, ht⟩
      · exact .here hE
      · have hmem : a ∈ rest := (List.mem_cons.1 ha).resolve_left hab
        exact .after hstep (ih ht (turnsAhead_of_step hstep hl (List.ne_nil_of_mem hmem)) hmem)

/-- R188: a turn that every round holds comes, as long as the steps before it keep `P`. -/
theorem comesTo_of_fair (fair : ∀ s, P s → a ∈ fairRound s) {s : State} (hs : P s) :
    ComesTo E s := by
  generalize hl : s.agents.schedule = l
  induction l generalizing s with
  | nil => exact comesTo_of_mem_turnsAhead hit go hs (turnsAhead_nil hl ▸ fair s hs)
  | cons b rest ih =>
    have hnext : nextTurn s = b := nextTurn_cons hl
    by_cases hab : b = a
    · exact .here (hit s hs (hnext.trans hab))
    · rcases go s hs (hnext.trans_ne hab) with hE | ⟨t, hstep, ht⟩
      · exact .here hE
      · refine .after hstep (ih ht ?_)
        rw [step_schedule hstep, turnsAhead_cons hl, List.tail_cons]

end

/-! ## What a step keeps (R141, R170, R206) -/

theorem IssueEffect.initDone_eq {w : Word} {s t : State} (h : IssueEffect w s t) :
    t.agents.initDone = s.agents.initDone := by
  obtain ⟨-, -, hinit, -⟩ := h.agents_eq
  exact hinit

/-- R205: between resets `INIT_DONE` is not cleared. -/
theorem step_initDone {s t : State} (h : step s = .next t) (hreset : ¬ ResetIsNext s)
    (hinit : s.agents.initDone = true) : t.agents.initDone = true := by
  cases step_effect h with
  | app _ _ _ _ _ _ ht => exact ht.initDone_eq.trans hinit
  | irq _ _ ht => exact ht.initDone_eq.trans hinit
  | init => rfl
  | reset cs hturn => exact absurd ⟨cs, hturn⟩ hreset
  | _ => exact hinit

/-- Each context's fault stops its own agent (R170). -/
theorem IssueEffect.otherStopped_eq {w : Word} {s t : State} (h : IssueEffect w s t) :
    (s.inIrq = false → t.agents.irqStopped = s.agents.irqStopped) ∧
    (s.inIrq = true → t.agents.appStopped = s.agents.appStopped) := by
  have hraise (code : FaultCode) :
      (s.inIrq = false → (raiseFault code s).agents.irqStopped = s.agents.irqStopped) ∧
      (s.inIrq = true → (raiseFault code s).agents.appStopped = s.agents.appStopped) :=
    ⟨fun hi => by simp [stopIssuer, hi], fun hi => by simp [stopIssuer, hi]⟩
  cases h with
  | rejected code => exact hraise code
  | command i _ h =>
    cases h with
    | faulted code => exact hraise code
    | _ => exact ⟨fun _ => rfl, fun _ => rfl⟩

/-- What stands at the port and may be issued, and the pixels and the configuration it reads, are as
in `s`. -/
def SamePort (s t : State) : Prop :=
  t.agents.stream = s.agents.stream ∧ t.agents.appStopped = s.agents.appStopped ∧
  t.pix = s.pix ∧ t.cfg = s.cfg

theorem samePort_refl (s : State) : SamePort s s := ⟨rfl, rfl, rfl, rfl⟩

theorem SamePort.trans {s t u : State} (h : SamePort s t) (h' : SamePort t u) : SamePort s u := by
  obtain ⟨hstream, hrun, hpix, hcfg⟩ := h
  obtain ⟨hstream', hrun', hpix', hcfg'⟩ := h'
  exact ⟨hstream'.trans hstream, hrun'.trans hrun, hpix'.trans hpix, hcfg'.trans hcfg⟩

/-- Between resets only APP's own step changes what a held command will read. -/
theorem step_samePort {s t : State} (h : step s = .next t) (hreset : ¬ ResetIsNext s)
    (hheld : nextTurn s = .app → ∀ w rest, s.agents.stream = w :: rest → wordHeld w s = true) :
    SamePort s t := by
  cases step_effect h with
  | app hturn w rest stream _ free =>
    exact absurd ((hheld hturn w rest stream).symm.trans free) (by decide)
  | irq _ may ht =>
    have interrupt := ((irqMayIssue_iff s).1 may).1
    obtain ⟨-, -, -, hstream⟩ := ht.agents_eq
    refine ⟨hstream, ht.otherStopped_eq.2 interrupt, ?_, ht.cfg_eq⟩
    rcases ht.pix_cases with hpix | ⟨thread, -⟩
    · exact hpix
    · exact absurd thread (not_thread_of_irqMayIssue may)
  | reset cs hturn => exact absurd ⟨cs, hturn⟩ hreset
  | _ => exact ⟨rfl, rfl, rfl, rfl⟩

/-! ## A transfer in flight (R36, R37, R39, R188) -/

/-- A transfer is in flight on a block that will complete it: the invariant, R176's handler, and
initialisation done. -/
structure InFlight (s : State) : Prop where
  inv : BlockInv s
  ready : HandlerReady s
  init : s.agents.initDone = true
  busy : s.busy = true

/-- R39: who carries the transfer in flight. -/
def carrier (s : State) : Turn :=
  if s.inIrq then .irq else if s.tcPend then .entry else .dma

/-- How many steps of its carriers the transfer in flight still takes (R188). -/
def stepsLeft (s : State) : Nat := if s.inIrq then 1 else s.dmaCnt + 2

/-- The wire once the bytes left to move are on it (R146). -/
def pledgedWire (s : State) : List Byte :=
  s.wire ++ (List.range s.dmaCnt).map fun j => stageRead s (s.dmaPtr + j)

/-- The transfer in flight will have sent the same bytes, up to the same byte of `STAGE`, as in `s`. -/
def SamePledge (s t : State) : Prop :=
  pledgedWire t = pledgedWire s ∧ t.dmaPtr + t.dmaCnt = s.dmaPtr + s.dmaCnt

theorem SamePledge.trans {s t u : State} (h : SamePledge s t) (h' : SamePledge t u) :
    SamePledge s u := by
  obtain ⟨hwire, hend⟩ := h
  obtain ⟨hwire', hend'⟩ := h'
  exact ⟨hwire'.trans hwire, hend'.trans hend⟩

/-- The carrier is fair (R188). -/
theorem carrier_mem_fairRound (s : State) : carrier s ∈ fairRound s := by
  refine mem_fairRound s ?_
  unfold carrier
  cases s.inIrq <;> cases s.tcPend <;> decide

/-- Exactly one of the DMA agent, ENTRY and IRQ has a step (R36, R37, R39). -/
theorem one_agent_enabled {s : State} (inv : BlockInv s) (hbusy : s.busy = true)
    (hrun : s.agents.irqStopped = false) :
    (dmaEnabled s = true ∧ entryEnabled s = false ∧ irqMayIssue s = false) ∨
    (dmaEnabled s = false ∧ entryEnabled s = true ∧ irqMayIssue s = false) ∨
    (dmaEnabled s = false ∧ entryEnabled s = false ∧ irqMayIssue s = true) := by
  rcases inv.in_flight hbusy with hcnt | hpend | hirq
  · obtain ⟨-, hen, hpend, hthread⟩ := inv.moving hcnt
    simp [dmaEnabled, entryEnabled, irqMayIssue, hcnt, hen, hpend, hthread]
  · obtain ⟨-, hcnt, hthread⟩ := inv.pending hpend
    simp [dmaEnabled, entryEnabled, irqMayIssue, hcnt, hpend, hthread]
  · obtain ⟨-, hcnt, hpend⟩ := inv.handling hirq
    simp [dmaEnabled, entryEnabled, irqMayIssue, hcnt, hpend, hirq, hrun]

/-- The elements that say how far the transfer in flight is, and the bytes it moves, are as in `s`. -/
def SameEngine (s t : State) : Prop :=
  t.stage = s.stage ∧ t.dmaCnt = s.dmaCnt ∧ t.dmaPtr = s.dmaPtr ∧ t.tcPend = s.tcPend ∧
  t.wire = s.wire

/-- While `BUSY = 1` no word at the port writes the transfer engine. -/
theorem IssueEffect.sameEngine {w : Word} {s t : State} (h : IssueEffect w s t)
    (hbusy : s.busy = true) : SameEngine s t := by
  cases h with
  | rejected => exact ⟨rfl, rfl, rfl, rfl, rfl⟩
  | command i _ h =>
    cases h with
    | started _ _ _ _ _ _ idle => exact absurd (hbusy.symm.trans idle) (by decide)
    | _ => exact ⟨rfl, rfl, rfl, rfl, rfl⟩

/-- In the thread context no word at the port leaves it. -/
theorem IssueEffect.inIrq_eq {w : Word} {s t : State} (h : IssueEffect w s t)
    (thread : s.inIrq = false) : t.inIrq = false := by
  cases h with
  | rejected => exact thread
  | command i _ h =>
    cases h with
    | released => rfl
    | _ => exact thread

theorem SameEngine.samePledge {s t : State} (h : SameEngine s t) : SamePledge s t := by
  obtain ⟨hstage, hcnt, hptr, -, hwire⟩ := h
  refine ⟨?_, by rw [hcnt, hptr]⟩
  simp only [pledgedWire, stageRead, hstage, hcnt, hptr, hwire]

/-- Moving a byte moves it from what is pledged to what is sent (R150). -/
theorem pledgedWire_moveByte {s : State} (h : 0 < s.dmaCnt) :
    pledgedWire (moveByte (stageRead s s.dmaPtr) s) = pledgedWire s := by
  obtain ⟨n, hn⟩ : ∃ n, s.dmaCnt = n + 1 := ⟨s.dmaCnt - 1, by omega⟩
  simp [pledgedWire, moveByte, stageRead, hn, List.range_succ_eq_map, Function.comp_def,
    Nat.add_assoc, Nat.add_comm 1]

/-- A step between resets keeps what a transfer in flight will have sent (R146, R155). -/
theorem step_samePledge {s t : State} (hbusy : s.busy = true) (h : step s = .next t)
    (hreset : ¬ ResetIsNext s) : SamePledge s t := by
  cases step_effect h with
  | app _ _ _ _ _ _ ht => exact (ht.sameEngine hbusy).samePledge
  | irq _ _ ht => exact (ht.sameEngine hbusy).samePledge
  | dma _ enabled =>
    have hcnt := ((dmaEnabled_iff s).1 enabled).2
    refine ⟨pledgedWire_moveByte (s := takeTurn s) hcnt, ?_⟩
    simp only [moveByte_dmaPtr, moveByte_dmaCnt, takeTurn_dmaPtr, takeTurn_dmaCnt]
    omega
  | reset cs hturn => exact absurd ⟨cs, hturn⟩ hreset
  | _ => exact ⟨rfl, rfl⟩

theorem exec_complete_releases {s : State} (hirq : s.inIrq = true) (hbusy : s.busy = true) :
    exec .complete s = .next (returnFromInterrupt (releaseBusy s)) := by
  simp [exec, execComplete, inInterrupt, hirq, hbusy]

theorem HandlerReady.decode_handlerWord {s : State} (h : HandlerReady s) :
    decode s.agents.handlerWord = .command .complete := by
  obtain ⟨hw, -⟩ := h
  rw [hw]
  decide

/-- IRQ's step performs the handler's COMPLETE (R176). -/
theorem InFlight.step_irq {s : State} (fl : InFlight s) (hirq : s.inIrq = true)
    (hturn : nextTurn s = .irq) :
    step s = .next (returnFromInterrupt (releaseBusy (takeTurn s))) := by
  obtain ⟨-, hrun⟩ := fl.ready
  have may : irqMayIssue (takeTurn s) = true := (irqMayIssue_iff _).2 ⟨hirq, hrun⟩
  rw [step_eq hturn]
  exact (irqStep_command may fl.ready.decode_handlerWord).trans
    (exec_complete_releases hirq fl.busy)

/-- R176: a step between resets keeps the handler ready, because IRQ's COMPLETE releases a transfer
that is in flight. -/
theorem InFlight.handlerReady_step {s t : State} (fl : InFlight s) (h : step s = .next t)
    (hreset : ¬ ResetIsNext s) : HandlerReady t := by
  obtain ⟨hword, hrun⟩ := fl.ready
  cases step_effect h with
  | app _ _ _ _ may _ ht =>
    have thread := ((appMayIssue_iff s).1 may).1
    obtain ⟨-, hkept, -⟩ := ht.agents_eq
    exact ⟨hkept.trans hword, (ht.otherStopped_eq.1 thread).trans hrun⟩
  | irq hturn may =>
    have hstep := fl.step_irq ((irqMayIssue_iff s).1 may).1 hturn
    obtain rfl : _ = t := Host.Outcome.next.inj (hstep.symm.trans h)
    exact ⟨hword, hrun⟩
  | reset cs hturn => exact absurd ⟨cs, hturn⟩ hreset
  | _ => exact ⟨hword, hrun⟩

/-- The turn of another agent leaves the transfer in flight where it is (R39). -/
theorem InFlight.step_other {s t : State} (fl : InFlight s) (h : step s = .next t)
    (hreset : ¬ ResetIsNext s) (hother : nextTurn s ≠ carrier s) :
    t.busy = true ∧ carrier t = carrier s ∧ stepsLeft t = stepsLeft s := by
  cases step_effect h with
  | app _ _ _ _ may _ ht =>
    have thread := ((appMayIssue_iff s).1 may).1
    have hirq : t.inIrq = s.inIrq := (ht.inIrq_eq thread).trans thread.symm
    obtain ⟨-, hcnt, -, hpend, -⟩ := ht.sameEngine fl.busy
    refine ⟨?_, ?_, ?_⟩
    · rcases ht.busy_cases with hb | ⟨hb, -⟩ | ⟨-, interrupt, -⟩
      · exact hb.trans fl.busy
      · exact hb
      · exact absurd interrupt (not_interrupt_of_appMayIssue may)
    · simp [carrier, hirq, hpend]
    · simp [stepsLeft, hirq, hcnt]
  | irq hturn may =>
    have interrupt := ((irqMayIssue_iff s).1 may).1
    exact absurd (hturn.trans (if_pos interrupt).symm) hother
  | entry hturn enabled =>
    obtain ⟨hpend, thread⟩ := (entryEnabled_iff s).1 enabled
    exact absurd hturn (by simpa [carrier, thread, hpend] using hother)
  | dma hturn enabled =>
    obtain ⟨-, -, hpend, thread⟩ := fl.inv.moving ((dmaEnabled_iff s).1 enabled).2
    exact absurd hturn (by simpa [carrier, thread, hpend] using hother)
  | reset cs hturn => exact absurd ⟨cs, hturn⟩ hreset
  | _ => exact ⟨fl.busy, rfl, rfl⟩

/-- The carrier's turn brings the transfer in flight nearer its end (R188). -/
theorem InFlight.step_carrier {s t : State} (fl : InFlight s) (h : step s = .next t)
    (hturn : nextTurn s = carrier s) : t.busy = false ∨ stepsLeft t < stepsLeft s := by
  have answer {u : State} (hu : step s = .next u) : u = t :=
    Host.Outcome.next.inj (hu.symm.trans h)
  rcases fl.inv.in_flight fl.busy with hcnt | hpend | hirq
  · obtain ⟨-, hen, hpend, thread⟩ := fl.inv.moving hcnt
    have hdma : nextTurn s = .dma := by simpa [carrier, thread, hpend] using hturn
    obtain rfl := answer ((step_eq hdma).trans
      (dmaStep_of_enabled (fl.inv.of_agents _) ((dmaEnabled_iff _).2 ⟨hen, hcnt⟩)))
    right
    simp only [stepsLeft, moveByte_inIrq, moveByte_dmaCnt, takeTurn_inIrq, takeTurn_dmaCnt, thread]
    simp only [Bool.false_eq_true, if_false]
    omega
  · obtain ⟨-, -, thread⟩ := fl.inv.pending hpend
    have hentry : nextTurn s = .entry := by simpa [carrier, thread, hpend] using hturn
    obtain rfl := answer ((step_eq hentry).trans
      (entryStep_of_enabled ((entryEnabled_iff _).2 ⟨hpend, thread⟩)))
    right
    simp [stepsLeft, thread]
  · obtain rfl := answer (fl.step_irq hirq (hturn.trans (if_pos hirq)))
    exact .inl rfl

theorem InFlight.kept {s t : State} (fl : InFlight s) (h : step s = .next t)
    (hreset : ¬ ResetIsNext s) (hbusy : t.busy = true) : InFlight t :=
  ⟨fl.inv.of_step h, fl.handlerReady_step h hreset, step_initDone h hreset fl.init, hbusy⟩

section
variable {I : State → Prop}
  (keep : ∀ s t, InFlight s → I s → step s = .next t → ¬ ResetIsNext s → I t)
include keep

/-- R188: the transfer's carrier gets its turn, and until then the transfer stays where it is. -/
theorem InFlight.comesTo_carrier {s : State} (fl : InFlight s) (hI : I s) :
    ComesTo (fun t => (InFlight t ∧ I t ∧ stepsLeft t = stepsLeft s ∧ nextTurn t = carrier t) ∨
      ResetIsNext t) s := by
  refine comesTo_of_fair (a := carrier s)
    (P := fun t => InFlight t ∧ I t ∧ carrier t = carrier s ∧ stepsLeft t = stepsLeft s)
    ?_ ?_ ?_ ⟨fl, hI, rfl, rfl⟩
  · rintro t ⟨flt, hIt, hcarrier, hleft⟩ hturn
    exact .inl ⟨flt, hIt, hleft, hturn.trans hcarrier.symm⟩
  · rintro t ⟨flt, hIt, hcarrier, hleft⟩ hturn
    by_cases hreset : ResetIsNext t
    · exact .inl (.inr hreset)
    · obtain ⟨u, hstep⟩ := flt.inv.step_answers flt.init
      obtain ⟨hbusy, hc, hl⟩ := flt.step_other hstep hreset (hcarrier ▸ hturn)
      exact .inr ⟨u, hstep, flt.kept hstep hreset hbusy, keep t u flt hIt hstep hreset,
        hc.trans hcarrier, hl.trans hleft⟩
  · rintro t ⟨-, -, hcarrier, -⟩
    exact hcarrier ▸ carrier_mem_fairRound t

/-- R146, R188: a transfer in flight completes on every run, unless a reset comes first, and what its
steps keep holds where it has. -/
theorem InFlight.completes {s : State} (fl : InFlight s) (hI : I s) :
    ComesTo (fun t => (t.busy = false ∧ BlockInv t ∧ t.agents.initDone = true ∧ I t) ∨
      ResetIsNext t) s := by
  induction hn : stepsLeft s using Nat.strong_induction_on generalizing s with
  | _ n ih =>
    refine (fl.comesTo_carrier keep hI).trans_orReset ?_
    rintro t ⟨flt, hIt, hleft, hturn⟩
    by_cases hreset : ResetIsNext t
    · exact .here (.inr hreset)
    · obtain ⟨u, hstep⟩ := flt.inv.step_answers flt.init
      have hIu := keep t u flt hIt hstep hreset
      refine .after hstep ?_
      cases hbusy : u.busy with
      | false =>
        exact .here (.inl ⟨hbusy, flt.inv.of_step hstep, step_initDone hstep hreset flt.init, hIu⟩)
      | true =>
        have hless : stepsLeft u < n := by
          rcases flt.step_carrier hstep hturn with hdone | hless
          · simp [hbusy] at hdone
          · omega
        exact ih _ hless (flt.kept hstep hreset hbusy) hIu rfl

end

/-- R146: a transfer in flight completes after exactly the bytes that were left. -/
theorem InFlight.sends_pledgedWire {s : State} (fl : InFlight s) :
    ComesTo (fun t => (t.busy = false ∧ t.tcPend = false ∧ t.inIrq = false ∧ t.dmaCnt = 0 ∧
      t.dmaPtr = s.dmaPtr + s.dmaCnt ∧ t.wire = pledgedWire s) ∨ ResetIsNext t) s := by
  have hkeep (t u : State) (flt : InFlight t) (ht : SamePledge s t) (hstep : step t = .next u)
      (hreset : ¬ ResetIsNext t) : SamePledge s u :=
    ht.trans (step_samePledge flt.busy hstep hreset)
  refine (fl.completes hkeep ⟨rfl, rfl⟩).trans_orReset ?_
  rintro t ⟨hbusy, inv, -, hwire, hend⟩
  obtain ⟨hcnt, hpend, thread⟩ := inv.idle hbusy
  refine .here (.inl ⟨hbusy, hpend, thread, hcnt, ?_, ?_⟩)
  · simpa [hcnt] using hend
  · simpa [pledgedWire, hcnt] using hwire

/-! ## A REFRESH at the port (R141, R188) -/

theorem exec_refresh_starts {n c : Nat} {s : State} (thread : s.inIrq = false)
    (hinit : s.agents.initDone = true) (hidle : s.busy = false)
    (hc : effectiveCount s.cfg.toParams n = some c) :
    exec (.refresh n) s = .next (startTransfer c s) := by
  simp [exec, execRefresh, inThread, thread, hinit, hidle, hc]

/-- With `BUSY = 0` only APP's own step sets it (R24). -/
theorem step_idle {s t : State} (inv : BlockInv s) (hidle : s.busy = false)
    (h : step s = .next t) (hother : nextTurn s ≠ .app) : t.busy = false := by
  obtain ⟨-, -, thread⟩ := inv.idle hidle
  cases step_effect h with
  | app hturn => exact absurd hturn hother
  | irq _ may => exact absurd thread (not_thread_of_irqMayIssue may)
  | reset => rfl
  | _ => exact hidle

/-- A REFRESH of effective count `c`, the word `w`, stands at the port of an APP that has not stopped,
after initialisation. -/
structure RefreshAtPort (w : Word) (rest : List Word) (n c : Nat) (s : State) : Prop where
  stream : s.agents.stream = w :: rest
  running : s.agents.appStopped = false
  init : s.agents.initDone = true
  decoded : decode w = .command (.refresh n)
  count : effectiveCount s.cfg.toParams n = some c

/-- The block is idle, and what stands at the port is as in `s`: where APP's turn then comes, it
performs the REFRESH of `s`. -/
structure IdleWithPort (s t : State) : Prop where
  idle : t.busy = false
  inv : BlockInv t
  init : t.agents.initDone = true
  port : SamePort s t

section
variable {w : Word} {rest : List Word} {n c : Nat} {s : State}
  (port : RefreshAtPort w rest n c s)
include port

theorem RefreshAtPort.waits : refreshWaits s = true :=
  (refreshWaits_cons port.stream port.decoded port.init port.count).1

theorem RefreshAtPort.wordHeld_eq : wordHeld w s = s.busy :=
  (refreshWaits_cons port.stream port.decoded port.init port.count).2

theorem RefreshAtPort.of_samePort {t : State} (h : SamePort s t)
    (hinit : t.agents.initDone = true) : RefreshAtPort w rest n c t := by
  obtain ⟨hstream, hrun, -, hcfg⟩ := h
  exact ⟨hstream.trans port.stream, hrun.trans port.running, hinit, port.decoded,
    hcfg ▸ port.count⟩

/-- Until it is performed the REFRESH stays at the port, and what it reads stays as it is. -/
theorem RefreshAtPort.samePort_step {t : State} (h : step s = .next t)
    (hreset : ¬ ResetIsNext s) (hwait : s.busy = true ∨ nextTurn s ≠ .app) : SamePort s t := by
  refine step_samePort h hreset fun hturn v more hs => ?_
  obtain ⟨rfl, -⟩ := List.cons.inj (port.stream.symm.trans hs)
  exact port.wordHeld_eq.trans (hwait.resolve_right fun hne => hne hturn)

/-- APP's turn with `BUSY = 0` performs the REFRESH (R140, R141). -/
theorem RefreshAtPort.performed (inv : BlockInv s) (hidle : s.busy = false)
    (hturn : nextTurn s = .app) : step s = .next (startTransfer c (popCommand (takeTurn s))) := by
  obtain ⟨-, -, thread⟩ := inv.idle hidle
  have may : appMayIssue (takeTurn s) = true := (appMayIssue_iff _).2 ⟨thread, port.running⟩
  have free : commandHeld (.refresh n) (takeTurn s) = false := by
    simp [commandHeld, refreshHeld, hidle]
  calc step s = appStep (takeTurn s) := step_eq hturn
    _ = exec (.refresh n) (popCommand (takeTurn s)) :=
      appStep_command port.stream may port.decoded free
    _ = _ := exec_refresh_starts thread port.init hidle port.count

/-- The release of a transfer in flight leaves the REFRESH at the port (R141, R154). -/
theorem RefreshAtPort.comesTo_idle (inv : BlockInv s) (ready : HandlerReady s) :
    ComesTo (fun t => IdleWithPort s t ∨ ResetIsNext t) s := by
  cases hbusy : s.busy with
  | false => exact .here (.inl ⟨hbusy, inv, port.init, samePort_refl s⟩)
  | true =>
    have hkeep (t u : State) (flt : InFlight t) (ht : SamePort s t) (hstep : step t = .next u)
        (hreset : ¬ ResetIsNext t) : SamePort s u :=
      ht.trans ((port.of_samePort ht flt.init).samePort_step hstep hreset (.inl flt.busy))
    have fl : InFlight s := ⟨inv, ready, port.init, hbusy⟩
    refine (fl.completes hkeep (samePort_refl s)).trans_orReset ?_
    rintro t ⟨hidle, invt, hinit, ht⟩
    exact .here (.inl ⟨hidle, invt, hinit, ht⟩)

/-- R188: APP has a turn while the REFRESH waits. -/
theorem RefreshAtPort.comesTo_app {t : State} (ht : IdleWithPort s t) :
    ComesTo (fun u => (IdleWithPort s u ∧ nextTurn u = .app) ∨ ResetIsNext u) t := by
  refine comesTo_of_fair (a := .app) (P := IdleWithPort s) ?_ ?_ ?_ ht
  · exact fun u hu hturn => .inl ⟨hu, hturn⟩
  · intro u hu hturn
    by_cases hreset : ResetIsNext u
    · exact .inl (.inr hreset)
    · obtain ⟨v, hstep⟩ := hu.inv.step_answers hu.init
      have hsame := (port.of_samePort hu.port hu.init).samePort_step hstep hreset (.inr hturn)
      exact .inr ⟨v, hstep, step_idle hu.inv hu.idle hstep hturn, hu.inv.of_step hstep,
        step_initDone hstep hreset hu.init, hu.port.trans hsame⟩
  · exact fun u hu => app_mem_fairRound (port.of_samePort hu.port hu.init).waits

/-- What the step that performs the REFRESH leaves behind (R140): the frame is that of `PIX` as it was
in `s`. -/
theorem RefreshAtPort.starts_frame {t : State} (ht : IdleWithPort s t)
    (hturn : nextTurn t = .app) :
    ∃ u : State, step t = .next u ∧ u.busy = true ∧ u.chEn = true ∧
      u.dmaCnt = transferLength s.cfg.toParams c ∧ u.dmaPtr = 0 ∧ u.wire = t.wire ∧
      u.agents.stream = rest ∧ ∀ j, j < transferLength s.cfg.toParams c →
        stageRead u j = frameByte s.cfg.toParams (pixRead s) c j := by
  have portt := port.of_samePort ht.port ht.init
  obtain ⟨-, -, hpix, hcfg⟩ := ht.port
  refine ⟨startTransfer c (popCommand (takeTurn t)), portt.performed ht.inv ht.idle hturn,
    startTransfer_busy _ _, startTransfer_chEn _ _, ?_, startTransfer_dmaPtr _ _,
    startTransfer_wire _ _, ?_, ?_⟩
  · have hlength := fitCounter_transferLength (effectiveCount_le portt.count)
    simpa [hcfg] using hlength
  · simp [portt.stream]
  · intro j hj
    have hread : pixRead t = pixRead s := funext fun i => congrArg (Memory.read · i) hpix
    rw [stageRead_startTransfer (s := popCommand (takeTurn t)) ht.inv.stage_wf]
    simp [hcfg, hj, hread]

/-- R188: a REFRESH at the port is performed on every run, unless a reset comes first. -/
theorem RefreshAtPort.comesTo_performed (inv : BlockInv s) (ready : HandlerReady s) :
    ComesTo (fun t => (IdleWithPort s t ∧ nextTurn t = .app) ∨ ResetIsNext t) s :=
  (port.comesTo_idle inv ready).trans_orReset fun _ => port.comesTo_app

end

/-- R188: on every run the DMA agent, ENTRY and IRQ get their turns again, unless it has stopped. -/
theorem turn_comes (s : State) {a : Turn} (ha : a ∈ [Turn.dma, .entry, .irq]) :
    ∃ n, (∃ t, run n s = .next t ∧ nextTurn t = a) ∨ ∀ t, run n s ≠ .next t := by
  have hcomes : ComesTo (fun t => nextTurn t = a ∨ ∀ u, step t ≠ .next u) s := by
    refine comesTo_of_fair (a := a) (P := fun _ => True) (fun _ _ => .inl) ?_
      (fun t _ => mem_fairRound t ha) trivial
    intro t _ _
    by_cases hstop : ∃ u, step t = .next u
    · obtain ⟨u, hu⟩ := hstop
      exact .inr ⟨u, hu, trivial⟩
    · exact .inl (.inr fun u hu => hstop ⟨u, hu⟩)
  induction hcomes with
  | here h =>
    rcases h with hturn | hstop
    · exact ⟨0, .inl ⟨_, rfl, hturn⟩⟩
    · exact ⟨1, .inr (run_one_of_stopped hstop)⟩
  | after hstep _ ih =>
    obtain ⟨n, hn⟩ := ih
    exact ⟨n + 1, by simpa only [run_succ hstep n] using hn⟩

end Sys2Proof.Machine

/-! ## The statements -/

namespace Sys2Proof.Proofs

open Sys2Proof Sys2Proof.Machine

/-- Settles O55: the step is one of its effects, and each operation an effect is made of keeps the
invariant. -/
theorem stepKeepsTheInvariant : Obligations.StepKeepsTheInvariant :=
  fun _ _ inv h => inv.of_step h

/-- Settles O54: no transfer is in flight after reset, and the arrays are given entry by entry. -/
theorem resetSatisfiesTheInvariant : Obligations.ResetSatisfiesTheInvariant :=
  ⟨blockInv_reset, fun _ _ hturn => ⟨_, step_eq hturn, blockInv_resetBlock _ _ _ _ _⟩⟩

/-- Settles O20: APP's word is issued in the thread context and IRQ's in the interrupt context, and of
the words only SETPIXEL and FILLALL, in the thread context, write `PIX`. -/
theorem pixHasTwoWriters : Obligations.PixHasTwoWriters := by
  intro s t h hreset hne
  cases step_effect h with
  | app hturn w rest stream _ _ ht =>
    obtain ⟨thread, hwrite⟩ := ht.pix_cases.resolve_left hne
    exact ⟨hturn, thread, w, rest, stream, hwrite⟩
  | irq _ may ht =>
    obtain ⟨thread, -⟩ := ht.pix_cases.resolve_left hne
    exact absurd thread (not_thread_of_irqMayIssue may)
  | reset cs hturn => exact absurd hturn (hreset cs)
  | _ => exact absurd rfl hne

/-- Settles O21: of the words only GETPIXEL, in the thread context, writes `RDATA` or responds. -/
theorem rdataIsWrittenOnlyByGetpixel : Obligations.RdataIsWrittenOnlyByGetpixel := by
  intro s t h hreset
  cases step_effect h with
  | app hturn w rest stream _ _ ht =>
    rcases ht.rdata_cases with hsame | ⟨thread, k, hread⟩
    · exact .inl hsame
    · exact .inr ⟨hturn, thread, w, rest, k, stream, hread⟩
  | irq _ may ht =>
    rcases ht.rdata_cases with hsame | ⟨thread, -⟩
    · exact .inl hsame
    · exact absurd thread (not_thread_of_irqMayIssue may)
  | reset cs hturn => exact absurd hturn (hreset cs)
  | _ => exact .inl ⟨rfl, rfl⟩

/-- Settles O35: of the words only REFRESH, in the thread context, sets `BUSY`, and only COMPLETE, in
the interrupt context, clears it. -/
theorem busyHasTwoWriters : Obligations.BusyHasTwoWriters := by
  intro s t h hreset hne
  cases step_effect h with
  | app hturn w rest stream may _ ht =>
    rcases ht.busy_cases.resolve_left hne with ⟨hset, thread, n, hd⟩ | ⟨-, interrupt, -⟩
    · exact .inl ⟨hset, hturn, thread, w, rest, n, stream, hd⟩
    · exact absurd interrupt (not_interrupt_of_appMayIssue may)
  | irq hturn may ht =>
    rcases ht.busy_cases.resolve_left hne with ⟨-, thread, -⟩ | ⟨hclear, interrupt, hleft, hd⟩
    · exact absurd thread (not_thread_of_irqMayIssue may)
    · exact .inr ⟨hclear, hturn, interrupt, hleft, hd⟩
  | reset cs hturn => exact absurd hturn (hreset cs)
  | _ => exact absurd rfl hne

/-- Settles O49: only a word that raises a fault writes `FAULT`; it sets one bit and stops its issuer. -/
theorem faultBitsAreSticky : Obligations.FaultBitsAreSticky := by
  intro s t h hreset
  cases step_effect h with
  | app _ _ _ _ _ _ ht => exact ht.fault_sticky
  | irq _ _ ht => exact ht.fault_sticky
  | reset cs hturn => exact absurd hturn (hreset cs)
  | _ => exact ⟨fun _ hb => hb, fun hne => absurd rfl hne⟩

/-- Settles O51: no word writes `WIRE`, and the DMA agent appends the byte it moves. -/
theorem wireGrowsOnlyByDmaBytes : Obligations.WireGrowsOnlyByDmaBytes := by
  intro s t h hreset
  cases step_effect h with
  | app _ _ _ _ _ _ ht => exact .inl ht.wire_eq
  | irq _ _ ht => exact .inl ht.wire_eq
  | dma hturn enabled =>
    obtain ⟨hen, hcnt⟩ := (dmaEnabled_iff s).1 enabled
    exact .inr ⟨hturn, hen, hcnt, rfl⟩
  | reset cs hturn => exact absurd hturn (hreset cs)
  | _ => exact .inl rfl

/-- Settles O58: no word and no turn writes the configuration, and a reset input keeps it. -/
theorem configurationIsFixed : Obligations.ConfigurationIsFixed := by
  intro s t h
  cases step_effect h with
  | app _ _ _ _ _ _ ht => exact ht.cfg_eq
  | irq _ _ ht => exact ht.cfg_eq
  | _ => rfl

/-- Settles O45: the carrier of a transfer in flight has a turn in every round, each of its turns
brings the transfer nearer its end, and the other turns keep what it will have sent; a REFRESH at the
port keeps the pixels it reads until the release, and a round then gives APP its turn. -/
theorem oneAgentCarriesTheTransfer : Obligations.OneAgentCarriesTheTransfer := by
  refine ⟨fun s inv => one_agent_enabled inv, ?_, ?_, ?_⟩
  · intro s a ha
    exact turn_comes s (by simpa using ha)
  · intro s inv ready hinit hbusy
    exact eventuallyOrReset_of_comesTo (InFlight.sends_pledgedWire ⟨inv, ready, hinit, hbusy⟩)
  · intro s w rest n c inv ready hinit hrun hs hd hc
    have port : RefreshAtPort w rest n c s := ⟨hs, hrun, hinit, hd, hc⟩
    refine eventuallyOrReset_of_comesTo ((port.comesTo_performed inv ready).trans_orReset ?_)
    exact fun t ⟨ht, hturn⟩ => .here (.inl ⟨ht.idle, port.starts_frame ht hturn⟩)

end Sys2Proof.Proofs
end

section
/-! The family of 20_memory.md: pixel writes done a second time, and the line levels of a byte. -/

namespace Sys2Proof.Machine

/-! ## A write done a second time (R59) -/

namespace Memory

variable {w : Nat} {m : Memory w}

theorem write_write_same (h : m.wf = true) (k : Nat) (v : BitVec w) :
    (m.write k v).write k v = m.write k v := by
  refine ext_of_wfFrom (wf_write (wf_write h)) (wf_write h) fun j => ?_
  rw [read_write (wf_write h), read_write h]
  by_cases hj : j = k <;> simp [hj]

theorem writeList_writeList_same (h : m.wf = true) (k : Nat) (vs : List (BitVec w)) :
    (m.writeList k vs).writeList k vs = m.writeList k vs := by
  refine ext_of_wfFrom (wf_writeList (wf_writeList h)) (wf_writeList h) fun j => ?_
  rw [read_writeList (wf_writeList h), read_writeList h]
  by_cases hj : k ≤ j
  · cases hv : vs[j - k]? <;> simp [hj]
  · simp [hj]

end Memory

theorem pixWrite_pixWrite_same {s : State} (h : s.pix.wf = true) (k : Nat) (c : Color) :
    pixWrite k c (pixWrite k c s) = pixWrite k c s :=
  congrArg (fun m => { s with pix := m }) (Memory.write_write_same h k c)

theorem pixFill_pixFill_same {s : State} (h : s.pix.wf = true) (c : Color) :
    pixFill c (pixFill c s) = pixFill c s :=
  congrArg (fun m => { s with pix := m }) (Memory.writeList_writeList_same h 0 _)

/-! ## The pixel writes in the thread context (R100, R101, R104) -/

theorem inThread_of_thread {s : State} (thread : s.inIrq = false) (f : State → Result) :
    inThread s f = f s := by
  simp [inThread, thread]

theorem exec_setpixel_inside {s : State} {k : Nat} (thread : s.inIrq = false)
    (hk : k < s.cfg.ledCount) (c : Color) : exec (.setpixel k c) s = .next (pixWrite k c s) := by
  simp [exec, execSetpixel, inThread_of_thread thread, inStrip, hk]

theorem exec_setpixel_outside {s : State} {k : Nat} (thread : s.inIrq = false)
    (hk : ¬ k < s.cfg.ledCount) (c : Color) : exec (.setpixel k c) s = .next s := by
  simp [exec, execSetpixel, inThread_of_thread thread, inStrip, hk]

theorem exec_fillall_thread {s : State} (thread : s.inIrq = false) (c : Color) :
    exec (.fillall c) s = .next (pixFill c s) := by
  rw [exec, execFillall, inThread_of_thread thread]

/-! ## The line levels of bytes (R56) -/

theorem lineBits_nil (p : Params) : lineBits p [] = [] := rfl

theorem lineBits_cons (p : Params) (b : Byte) (bytes : List Byte) :
    lineBits p (b :: bytes) = shiftBits p.shiftOrder b ++ lineBits p bytes :=
  List.flatMap_cons

theorem shiftBits_msbFirst (b : Byte) : shiftBits .msbFirst b =
    [b.getLsbD 7, b.getLsbD 6, b.getLsbD 5, b.getLsbD 4, b.getLsbD 3, b.getLsbD 2, b.getLsbD 1,
      b.getLsbD 0] := rfl

theorem shiftBits_lsbFirst (b : Byte) : shiftBits .lsbFirst b =
    [b.getLsbD 0, b.getLsbD 1, b.getLsbD 2, b.getLsbD 3, b.getLsbD 4, b.getLsbD 5, b.getLsbD 6,
      b.getLsbD 7] := rfl

end Sys2Proof.Machine

/-! ## The statements -/

namespace Sys2Proof.Proofs

open Sys2Proof Sys2Proof.Machine

/-- Settles O19: the first command leaves the context and the strip as they were, so the second one
does the same write, and a write done twice leaves the same entries in canonical form; outside the
strip neither does anything. -/
theorem pixelWritesAreIdempotent : Obligations.PixelWritesAreIdempotent := by
  intro i s t thread hwf hi h
  rcases hi with ⟨k, c, rfl⟩ | ⟨c, rfl⟩
  · by_cases hk : k < s.cfg.ledCount
    · obtain rfl : pixWrite k c s = t := by simpa [exec_setpixel_inside thread hk] using h
      rw [exec_setpixel_inside (s := pixWrite k c s) thread hk, pixWrite_pixWrite_same hwf]
    · obtain rfl : s = t := by simpa [exec_setpixel_outside thread hk] using h
      exact h
  · obtain rfl : pixFill c s = t := by simpa [exec_fillall_thread thread] using h
    rw [exec_fillall_thread (s := pixFill c s) thread, pixFill_pixFill_same hwf]

/-- Settles O29, by the two values of SHIFT_ORDER. -/
theorem lineBitsFollowTheShiftOrder : Obligations.LineBitsFollowTheShiftOrder := by
  intro p b bytes
  refine ⟨lineBits_nil p, ?_⟩
  rw [lineBits_cons]
  cases p.shiftOrder with
  | msbFirst => rw [shiftBits_msbFirst, if_pos rfl]
  | lsbFirst => rw [shiftBits_lsbFirst, if_neg (by decide)]

end Sys2Proof.Proofs
end

section
/-! The family of 30_encoding.md: the decoder and the encoder are inverse to each other, what the
assembler accepts, a word that does not decode at its agent's turn, and the context check. -/

namespace Sys2Proof

/-! ## The decoder by opcode (R73 to R77) -/

theorem checkRow_of_iff {r : Row} {w : Word} {P : Prop} [Decidable P]
    (h : r.matches w = true ↔ P) (i : Instr) :
    checkRow r i w = if P then .command i else .rejected .reservedNonzero :=
  if_congr h rfl rfl

section
variable {w : Word}

theorem decode_of_opc_setpixel (h : opcOf w = 0x01) : decode w = if rsvOf w = 0 then
    .command (.setpixel (argOf w).toNat (colOf w)) else .rejected .reservedNonzero := by
  rw [decode, if_pos h]
  exact checkRow_of_iff ((matches_setpixel w).trans (and_iff_right h)) _

theorem decode_of_opc_fillall (h : opcOf w = 0x02) : decode w = if argOf w = 0 ∧ rsvOf w = 0 then
    .command (.fillall (colOf w)) else .rejected .reservedNonzero := by
  have row : decode w = checkRow rowFillall (.fillall (colOf w)) w := by simp [decode, h]
  exact row.trans (checkRow_of_iff ((matches_fillall w).trans (and_iff_right h)) _)

theorem decode_of_opc_getpixel (h : opcOf w = 0x03) : decode w = if rsvOf w = 0 ∧ colOf w = 0 then
    .command (.getpixel (argOf w).toNat) else .rejected .reservedNonzero := by
  have row : decode w = checkRow rowGetpixel (.getpixel (argOf w).toNat) w := by simp [decode, h]
  exact row.trans (checkRow_of_iff ((matches_getpixel w).trans (and_iff_right h)) _)

theorem decode_of_opc_refresh (h : opcOf w = 0x04) : decode w = if rsvOf w = 0 ∧ colOf w = 0 then
    .command (.refresh (argOf w).toNat) else .rejected .reservedNonzero := by
  have row : decode w = checkRow rowRefresh (.refresh (argOf w).toNat) w := by simp [decode, h]
  exact row.trans (checkRow_of_iff ((matches_refresh w).trans (and_iff_right h)) _)

theorem decode_of_opc_complete (h : opcOf w = 0x05) :
    decode w = if argOf w = 0 ∧ rsvOf w = 0 ∧ colOf w = 0 then
      .command .complete else .rejected .reservedNonzero := by
  have row : decode w = checkRow rowComplete .complete w := by simp [decode, h]
  exact row.trans (checkRow_of_iff ((matches_complete w).trans (and_iff_right h)) _)

theorem decode_of_opc_unassigned (h : opcOf w ∉ [0x01#8, 0x02#8, 0x03#8, 0x04#8, 0x05#8]) :
    decode w = .rejected .illegalOpcode := by
  simp only [List.mem_cons, List.not_mem_nil, or_false, not_or] at h
  obtain ⟨h1, h2, h3, h4, h5⟩ := h
  simp [decode, h1, h2, h3, h4, h5]

end

/-! ## Decoding an encoded command (R79) -/

theorem argFits_iff (n : Nat) : argFits n = true ↔ n < 2 ^ 24 := decide_eq_true_iff

theorem toNat_ofNat_of_argFits {n : Nat} (h : argFits n = true) :
    (BitVec.ofNat 24 n).toNat = n :=
  (BitVec.toNat_ofNat n 24).trans (Nat.mod_eq_of_lt ((argFits_iff n).1 h))

/-- The encoder zeroes the fields that the row of its opcode checks, and the decoder reads the others
back. -/
theorem decode_encode {i : Instr} (h : i.wf = true) : decode (encode i) = .command i := by
  cases i with
  | setpixel k c =>
    rw [encode, Instr.opcode, decode_of_opc_setpixel (opcOf_packWord _ _ _),
      if_pos (rsvOf_packWord _ _ _), argOf_packWord, colOf_packWord, toNat_ofNat_of_argFits h]
  | fillall c =>
    rw [encode, Instr.opcode, decode_of_opc_fillall (opcOf_packWord _ _ _),
      if_pos ⟨argOf_packWord _ _ _, rsvOf_packWord _ _ _⟩, colOf_packWord]
  | getpixel k =>
    rw [encode, Instr.opcode, decode_of_opc_getpixel (opcOf_packWord _ _ _),
      if_pos ⟨rsvOf_packWord _ _ _, colOf_packWord _ _ _⟩, argOf_packWord,
      toNat_ofNat_of_argFits h]
  | refresh n =>
    rw [encode, Instr.opcode, decode_of_opc_refresh (opcOf_packWord _ _ _),
      if_pos ⟨rsvOf_packWord _ _ _, colOf_packWord _ _ _⟩, argOf_packWord,
      toNat_ofNat_of_argFits h]
  | complete =>
    rw [encode, Instr.opcode, decode_of_opc_complete (opcOf_packWord _ _ _),
      if_pos ⟨argOf_packWord _ _ _, rsvOf_packWord _ _ _, colOf_packWord _ _ _⟩]

theorem decode_of_encode_eq {w : Word} {i : Instr} (hwf : i.wf = true) (h : encode i = w) :
    decode w = .command i :=
  h ▸ decode_encode hwf

/-! ## What a word can decode to (R77) -/

theorem packWord_eq {w : Word} {opc : BitVec 8} {arg col : BitVec 24} (ho : opcOf w = opc)
    (ha : argOf w = arg) (hr : rsvOf w = 0) (hc : colOf w = col) : packWord opc arg col = w := by
  subst ho ha hc
  exact packWord_fields hr

theorem argFits_toNat (arg : BitVec 24) : argFits arg.toNat = true := (argFits_iff _).2 arg.isLt

/-- The answers of the decoder: a command only for that command's own word. -/
inductive DecodeAnswer (w : Word) : Decoded → Prop where
  | command (i : Instr) (hwf : i.wf = true) (hw : encode i = w) : DecodeAnswer w (.command i)
  | illegal : DecodeAnswer w (.rejected .illegalOpcode)
  | reserved : DecodeAnswer w (.rejected .reservedNonzero)

theorem checkRow_answer {r : Row} {i : Instr} {w : Word}
    (h : r.matches w = true → i.wf = true ∧ encode i = w) : DecodeAnswer w (checkRow r i w) := by
  unfold checkRow
  split
  · next hm => exact .command i (h hm).1 (h hm).2
  · exact .reserved

theorem decode_answer (w : Word) : DecodeAnswer w (decode w) := by
  have harg : argOf w = BitVec.ofNat 24 (argOf w).toNat := ((argOf w).ofNat_toNat 24).symm
  unfold decode
  split_ifs
  · refine checkRow_answer fun hm => ⟨argFits_toNat _, ?_⟩
    obtain ⟨ho, hr⟩ := (matches_setpixel w).1 hm
    exact packWord_eq ho harg hr rfl
  · refine checkRow_answer fun hm => ⟨rfl, ?_⟩
    obtain ⟨ho, ha, hr⟩ := (matches_fillall w).1 hm
    exact packWord_eq ho ha hr rfl
  · refine checkRow_answer fun hm => ⟨argFits_toNat _, ?_⟩
    obtain ⟨ho, hr, hc⟩ := (matches_getpixel w).1 hm
    exact packWord_eq ho harg hr hc
  · refine checkRow_answer fun hm => ⟨argFits_toNat _, ?_⟩
    obtain ⟨ho, hr, hc⟩ := (matches_refresh w).1 hm
    exact packWord_eq ho harg hr hc
  · refine checkRow_answer fun hm => ⟨rfl, ?_⟩
    obtain ⟨ho, ha, hr, hc⟩ := (matches_complete w).1 hm
    exact packWord_eq ho ha hr hc
  · exact .illegal

/-! ## The rows of the opcode table (R74) -/

/-- Every row's mask covers the whole of OPC, so a word matches a row of its own opcode only. -/
theorem opcOf_of_matches {r : Row} (hr : r ∈ opcodeTable) {w : Word} (h : r.matches w = true) :
    opcOf w = opcOf r.fixed := by
  have hmask : ∀ r ∈ opcodeTable, opcOf r.mask = 255#8 := by decide
  obtain ⟨ho, -⟩ := (matches_iff r w).1 h
  rwa [hmask r hr, and_allOnes8] at ho

theorem opcodes_pairwise_ne : opcodeTable.Pairwise fun a b => opcOf a.fixed ≠ opcOf b.fixed := by
  decide

end Sys2Proof

namespace Sys2Proof.Machine

/-! ## What the assembler accepts (R79, R80) -/

theorem argFits_of_argOperand {token : List Char} {n : Nat} (h : argOperand token = some n) :
    argFits n = true := by
  obtain ⟨m, -, hm⟩ := Option.bind_eq_some_iff.1 h
  split at hm
  · next hlt =>
    cases hm
    exact (argFits_iff _).2 hlt
  · cases hm

theorem argOnly_wf {build : Nat → Instr} (hbuild : ∀ n, argFits n = true → (build n).wf = true)
    {tokens : List (List Char)} {i : Instr} (h : argOnly tokens build = some i) :
    i.wf = true := by
  unfold argOnly at h
  split at h
  · obtain ⟨n, hn, rfl⟩ := Option.map_eq_some_iff.1 h
    exact hbuild n (argFits_of_argOperand hn)
  · cases h

theorem setpixelOperands_wf {tokens : List (List Char)} {i : Instr}
    (h : setpixelOperands tokens = some i) : i.wf = true := by
  unfold setpixelOperands at h
  split at h
  · obtain ⟨k, hk, h⟩ := Option.bind_eq_some_iff.1 h
    obtain ⟨c, -, rfl⟩ := Option.map_eq_some_iff.1 h
    exact argFits_of_argOperand hk
  · cases h

theorem completeOperands_wf {tokens : List (List Char)} {i : Instr}
    (h : completeOperands tokens = some i) : i.wf = true := by
  unfold completeOperands at h
  split at h <;> cases h
  rfl

/-- Each of the five forms checks its index or count against the field (R79). -/
theorem parseTokens_wf {tokens : List (List Char)} {i : Instr} (h : parseTokens tokens = some i) :
    i.wf = true := by
  cases tokens with
  | nil => cases h
  | cons name rest =>
    simp only [parseTokens] at h
    split_ifs at h
    · exact setpixelOperands_wf h
    · obtain ⟨c, -, rfl⟩ := Option.map_eq_some_iff.1 h
      rfl
    · exact argOnly_wf (build := .getpixel) (fun _ hn => hn) h
    · exact argOnly_wf (build := .refresh) (fun _ hn => hn) h
    · exact completeOperands_wf h

/-! ## Raising a fault in each context (R170, R178) -/

theorem raiseFault_of_thread {s : State} (thread : s.inIrq = false) (code : FaultCode) :
    raiseFault code s = { s with
      fault := s.fault ||| faultBit code, agents := { s.agents with appStopped := true } } := by
  simp [raiseFault, recordFault, stopIssuer, thread]

theorem raiseFault_of_interrupt {s : State} (interrupt : s.inIrq = true) (code : FaultCode) :
    raiseFault code s = { s with
      fault := s.fault ||| faultBit code, agents := { s.agents with irqStopped := true } } := by
  simp [raiseFault, recordFault, stopIssuer, interrupt]

theorem inThread_of_interrupt {s : State} (interrupt : s.inIrq = true) (f : State → Result) :
    inThread s f = .next (raiseFault .wrongContext s) :=
  if_pos interrupt

theorem inInterrupt_of_thread {s : State} (thread : s.inIrq = false) (f : State → Result) :
    inInterrupt s f = .next (raiseFault .wrongContext s) := by
  simp [inInterrupt, thread]

/-- A command of the thread context in the interrupt context. A REFRESH has a step at all only after
initialisation (R206). -/
theorem exec_of_interrupt {s : State} {i : Instr} (interrupt : s.inIrq = true)
    (hi : i ≠ .complete) (init : ∀ n, i = .refresh n → s.agents.initDone = true) :
    exec i s = .next (raiseFault .wrongContext s) := by
  cases i with
  | setpixel k c => rw [exec, execSetpixel, inThread_of_interrupt interrupt]
  | fillall c => rw [exec, execFillall, inThread_of_interrupt interrupt]
  | getpixel k => rw [exec, execGetpixel, inThread_of_interrupt interrupt]
  | refresh n =>
    rw [exec, execRefresh, if_pos (init n rfl), inThread_of_interrupt interrupt]
  | complete => exact absurd rfl hi

/-! ## The turn of an agent whose word does not decode (R76, R78, R176) -/

theorem issue_rejected {w : Word} {code : FaultCode} (h : decode w = .rejected code) (s : State) :
    issue w s = .next (raiseFault code s) := by
  simp only [issue, h]

theorem wordHeld_rejected {w : Word} {code : FaultCode} (h : decode w = .rejected code)
    (s : State) : wordHeld w s = false := by
  simp only [wordHeld, h]

theorem appStep_rejected {s : State} {w : Word} {rest : List Word} {code : FaultCode}
    (hs : s.agents.stream = w :: rest) (hmay : appMayIssue s = true)
    (hd : decode w = .rejected code) : appStep s = .next (raiseFault code (popCommand s)) := by
  simp [appStep, hs, hmay, wordHeld_rejected hd, issue_rejected hd]

theorem step_app_rejected {s : State} {w : Word} {rest : List Word} {code : FaultCode}
    (hd : decode w = .rejected code) (hturn : nextTurn s = .app) (thread : s.inIrq = false)
    (hrun : s.agents.appStopped = false) (hs : s.agents.stream = w :: rest) :
    step s = .next { s with
      fault := s.fault ||| faultBit code
      agents := { (takeTurn s).agents with stream := rest, appStopped := true } } := by
  have hmay : appMayIssue (takeTurn s) = true := (appMayIssue_iff _).2 ⟨thread, hrun⟩
  calc step s = appStep (takeTurn s) := step_eq hturn
    _ = .next (raiseFault code (popCommand (takeTurn s))) := appStep_rejected hs hmay hd
    _ = _ := by
      rw [raiseFault_of_thread (s := popCommand (takeTurn s)) thread]
      simp [popCommand, takeTurn, hs]

theorem step_irq_rejected {s : State} {w : Word} {code : FaultCode}
    (hd : decode w = .rejected code) (hturn : nextTurn s = .irq) (interrupt : s.inIrq = true)
    (hrun : s.agents.irqStopped = false) (hw : s.agents.handlerWord = w) :
    step s = .next { s with
      fault := s.fault ||| faultBit code
      agents := { (takeTurn s).agents with irqStopped := true } } := by
  have hmay : irqMayIssue (takeTurn s) = true := (irqMayIssue_iff _).2 ⟨interrupt, hrun⟩
  subst hw
  calc step s = irqStep (takeTurn s) := step_eq hturn
    _ = .next (raiseFault code (takeTurn s)) := (if_pos hmay).trans (issue_rejected hd _)
    _ = _ := by rw [raiseFault_of_interrupt (s := takeTurn s) interrupt]; rfl

/-! ## A word given to the machine (log entry 6) -/

theorem tableWord_toNat (w : Word) : tableWord 64 w.toNat = w := by
  rw [tableWord, Nat.mod_eq_of_lt w.isLt, BitVec.ofNat_toNat, BitVec.setWidth_eq]

theorem withFetchWord_toNat (s : State) (w : Word) :
    s.withFetchWord 64 w.toNat = presentWord w s := by
  rw [State.withFetchWord, tableWord_toNat]

theorem presentWord_of_thread {s : State} (thread : s.inIrq = false) (w : Word) :
    presentWord w s = { s with agents := { s.agents with
      stream := w :: s.agents.stream, appStopped := false, initDone := true,
      schedule := .app :: s.agents.schedule } } := by
  simp [presentWord, thread]

theorem presentWord_of_interrupt {s : State} (interrupt : s.inIrq = true) (w : Word) :
    presentWord w s = { s with agents := { s.agents with
      handlerWord := w, irqStopped := false, initDone := true,
      schedule := .irq :: s.agents.schedule } } :=
  if_pos interrupt

end Sys2Proof.Machine

/-! ## The statements -/

namespace Sys2Proof.Proofs

open Sys2Proof Sys2Proof.Machine

/-- Settles O1, by the five commands. -/
theorem decodeOfEncodeIsTheCommand : Obligations.DecodeOfEncodeIsTheCommand :=
  fun _ hwf => decode_encode hwf

/-- Settles O2: the decoder answers a command only for a word of that row, whose other fields are the
operands. -/
theorem decodedCommandHasOneWord : Obligations.DecodedCommandHasOneWord := by
  intro w i hd
  cases hd ▸ decode_answer w with
  | command _ hwf hw => exact ⟨hwf, hw⟩

/-- Settles O3: each row fixes the whole of OPC, and no two rows the same one. -/
theorem decodeIsTotalAndUnambiguous : Obligations.DecodeIsTotalAndUnambiguous := by
  refine ⟨fun w => ?_, fun w => ?_, opcodes_pairwise_ne⟩
  · have answer := decode_answer w
    generalize decode w = d at answer ⊢
    cases answer with
    | command i hwf hw => exact .inl ⟨i, hwf, rfl⟩
    | illegal => exact .inr (.inl rfl)
    | reserved => exact .inr (.inr rfl)
  · refine opcodes_pairwise_ne.imp_of_mem fun ha hb hne hboth => ?_
    exact hne ((opcOf_of_matches ha hboth.1).symm.trans (opcOf_of_matches hb hboth.2))

/-- Settles O4, by the turn of an agent whose word does not decode. -/
theorem unassignedOpcodeRaisesIllegalOpcode : Obligations.UnassignedOpcodeRaisesIllegalOpcode := by
  intro w hopc
  have hd := decode_of_opc_unassigned hopc
  exact ⟨hd, fun _ _ => step_app_rejected hd, fun _ => step_irq_rejected hd⟩

/-- Settles O5: a row's mask asks that its must-be-zero fields are zero, and the decoder checks the row
of the word's opcode. -/
theorem reservedBitsRaiseReservedNonzero : Obligations.ReservedBitsRaiseReservedNonzero := by
  refine ⟨fun w => ⟨?_, ?_, ?_, ?_, ?_⟩, fun w => ⟨?_, ?_, ?_, ?_, ?_⟩, ?_, ?_⟩
  · exact beq_iff_eq.symm.trans (matches_setpixel w)
  · exact beq_iff_eq.symm.trans (matches_fillall w)
  · exact beq_iff_eq.symm.trans (matches_getpixel w)
  · exact beq_iff_eq.symm.trans (matches_refresh w)
  · exact beq_iff_eq.symm.trans (matches_complete w)
  · exact decode_of_opc_setpixel
  · exact decode_of_opc_fillall
  · exact decode_of_opc_getpixel
  · exact decode_of_opc_refresh
  · exact decode_of_opc_complete
  · exact fun _ _ _ => step_app_rejected
  · exact fun _ _ => step_irq_rejected

/-- Settles O7: the word is the encoding of the parsed command, whose operands are in range. -/
theorem assemblerWritesOnlyCommands : Obligations.AssemblerWritesOnlyCommands := by
  intro line w h
  obtain ⟨i, hi, hw⟩ := Option.map_eq_some_iff.1 h
  have hwf := parseTokens_wf hi
  exact ⟨i, hwf, hi, decode_of_encode_eq hwf hw⟩

/-- Settles O6: the encoder computes each word, and decoding it gives the command back. -/
theorem wordsOfTheSpecDecode : Obligations.WordsOfTheSpecDecode := by
  have both {w : Word} {i : Instr} (hwf : i.wf = true) (h : encode i = w) :
      decode w = .command i ∧ encode i = w := ⟨decode_of_encode_eq hwf h, h⟩
  exact ⟨both rfl rfl, both rfl rfl, both rfl rfl, both rfl rfl, both rfl rfl⟩

/-- Settles O9: the presented word is at the issuing agent's place and its turn is next, so the step
runs the word's command. -/
theorem presentedWordIsRunNext : Obligations.PresentedWordIsRunNext := by
  intro s w i hd hfree
  rw [withFetchWord_toNat] at hfree ⊢
  obtain ⟨appRuns, irqRuns⟩ := stepRunsTheDecodedCommand
  rcases Bool.dichotomy s.inIrq with hi | hi
  · have hturn : nextTurn (presentWord w s) = .app := by simp [hi]
    have hfree := hfree hi
    rw [presentWord_of_thread hi] at hturn hfree ⊢
    exact ⟨_, appRuns _ w s.agents.stream i hturn hi rfl rfl hd hfree, rfl⟩
  · have hturn : nextTurn (presentWord w s) = .irq := by simp [hi]
    rw [presentWord_of_interrupt hi] at hturn ⊢
    exact ⟨_, irqRuns _ i hturn hi rfl hd, rfl⟩

/-- Settles O10, by the context check and what raising a fault does in each context. -/
theorem commandOutsideItsContextFaults : Obligations.CommandOutsideItsContextFaults := by
  constructor
  · intro s i hi interrupt init
    rw [exec_of_interrupt interrupt hi init, raiseFault_of_interrupt interrupt]
    rfl
  · intro s thread
    rw [exec, execComplete, inInterrupt_of_thread thread, raiseFault_of_thread thread]
    rfl

end Sys2Proof.Proofs
end

section
/-! The family of 40_pixel_buffer.md: what a GETPIXEL answers in the thread context, an entry that
the commands between do not write, and the pixel commands beside the transfer engine. -/

namespace Sys2Proof.Machine

/-! ## GETPIXEL in the thread context (R102) -/

section
variable {s : State} {k : Nat} (thread : s.inIrq = false)
include thread

theorem exec_getpixel_inside (hk : k < s.cfg.ledCount) :
    exec (.getpixel k) s = .next (respond (pixRead s k) s) := by
  simp [exec, execGetpixel, inThread_of_thread thread, inStrip, hk]

theorem exec_getpixel_outside (hk : ¬ k < s.cfg.ledCount) :
    exec (.getpixel k) s = .next (raiseFault .oobRead s) := by
  simp [exec, execGetpixel, inThread_of_thread thread, inStrip, hk]

end

/-! ## A list of commands -/

theorem execAll_cons_next {i : Instr} {rest : List Instr} {s t : State}
    (h : execAll (i :: rest) s = .next t) :
    ∃ u, exec i s = .next u ∧ execAll rest u = .next t := by
  unfold execAll at h
  split at h
  · next u hu => exact ⟨u, hu, h⟩
  · cases h
  · cases h

/-- What each command of a list keeps, the list keeps. -/
theorem execAll_keeps {P : State → Prop} {commands : List Instr} {s t : State}
    (keeps : ∀ j ∈ commands, ∀ u v, P u → exec j u = .next v → P v) (hs : P s)
    (h : execAll commands s = .next t) : P t := by
  induction commands generalizing s with
  | nil => cases h; exact hs
  | cons j rest ih =>
    obtain ⟨u, hu, hrest⟩ := execAll_cons_next h
    obtain ⟨hj, hkeeps⟩ := List.forall_mem_cons.1 keeps
    exact ih hkeeps (hj s u hs hu) hrest

/-! ## An entry that the commands between do not write (R105(c)) -/

/-- The command belongs to the thread context and does not name `PIX[i]` to write it. -/
def SparesEntry (i : Nat) : Instr → Prop
  | .setpixel k _ => k ≠ i
  | .fillall _ => False
  | .getpixel _ => True
  | .refresh _ => True
  | .complete => False

theorem sparesEntry_of {i : Nat} {j : Instr} (h : (∃ k d, j = .setpixel k d ∧ k ≠ i) ∨
    (∃ k, j = .getpixel k) ∨ ∃ n, j = .refresh n) : SparesEntry i j := by
  rcases h with ⟨k, d, rfl, hk⟩ | ⟨k, rfl⟩ | ⟨n, rfl⟩
  · exact hk
  · trivial
  · trivial

/-- A GETPIXEL of entry `i` in the thread context returns `c`. -/
structure EntryShows (i : Nat) (c : Color) (s : State) : Prop where
  thread : s.inIrq = false
  inside : i < s.cfg.ledCount
  pix_wf : s.pix.wf = true
  entry : pixRead s i = c

section
variable {i : Nat} {c : Color} {s t : State}

theorem EntryShows.of_pixFill (thread : s.inIrq = false) (hi : i < s.cfg.ledCount)
    (hwf : s.pix.wf = true) : EntryShows i c (pixFill c s) where
  thread := thread
  inside := hi
  pix_wf := Memory.wf_writeList hwf
  entry := (pixRead_pixFill hwf c i).trans (if_pos hi)

theorem EntryShows.of_pixWrite (shows : EntryShows i c s) {k : Nat} (hk : k ≠ i) (d : Color) :
    EntryShows i c (pixWrite k d s) :=
  { shows with
    pix_wf := Memory.wf_write shows.pix_wf
    entry := (pixRead_pixWrite shows.pix_wf k d i).trans ((if_neg hk.symm).trans shows.entry) }

theorem EntryShows.of_commandEffect (shows : EntryShows i c s) {j : Instr}
    (spares : SparesEntry i j) (h : CommandEffect j s t) : EntryShows i c t := by
  cases h with
  | nothing => exact shows
  | faulted => exact { shows with }
  | wroteEntry k d hj =>
    subst hj
    exact shows.of_pixWrite spares d
  | filled d hj =>
    subst hj
    exact False.elim spares
  | responded => exact { shows with }
  | started => exact { shows with }
  | released hj =>
    subst hj
    exact False.elim spares

theorem EntryShows.of_execAll (shows : EntryShows i c s) {between : List Instr}
    (spares : ∀ j ∈ between, SparesEntry i j) (h : execAll between s = .next t) :
    EntryShows i c t :=
  execAll_keeps (fun j hj _ _ hu hv => hu.of_commandEffect (spares j hj) (exec_effect hv)) shows h

theorem EntryShows.exec_getpixel (shows : EntryShows i c s) :
    exec (.getpixel i) s = .next (respond c s) :=
  shows.entry ▸ exec_getpixel_inside shows.thread shows.inside

end

/-! ## The pixel commands beside the transfer engine (R103) -/

/-- The six elements that R103 names. -/
structure Engine where
  busy : Bool
  chEn : Bool
  tcPend : Bool
  stage : Memory 8
  dmaCnt : Nat
  dmaPtr : Nat

/-- The engine's elements of a state. -/
def engineOf (s : State) : Engine :=
  ⟨s.busy, s.chEn, s.tcPend, s.stage, s.dmaCnt, s.dmaPtr⟩

/-- The state with other values of the engine's elements. -/
def setEngine (e : Engine) (s : State) : State :=
  { s with busy := e.busy, chEn := e.chEn, tcPend := e.tcPend, stage := e.stage,
           dmaCnt := e.dmaCnt, dmaPtr := e.dmaPtr }

theorem setEngine_engineOf (s : State) : setEngine (engineOf s) s = s := rfl

theorem engineOf_setEngine (e : Engine) (s : State) : engineOf (setEngine e s) = e := rfl

section
variable {i : Instr} {s : State}
  (hi : (∃ k c, i = .setpixel k c) ∨ (∃ c, i = .fillall c) ∨ ∃ k, i = .getpixel k)
include hi

/-- A pixel command completes, and does the same whatever stands in the engine. -/
theorem exec_pixel_setEngine (thread : s.inIrq = false) :
    ∃ t, exec i s = .next t ∧ ∀ e, exec i (setEngine e s) = .next (setEngine e t) := by
  rcases hi with ⟨k, c, rfl⟩ | ⟨c, rfl⟩ | ⟨k, rfl⟩
  · by_cases hk : k < s.cfg.ledCount
    · exact ⟨_, exec_setpixel_inside thread hk c,
        fun e => exec_setpixel_inside (s := setEngine e s) thread hk c⟩
    · exact ⟨_, exec_setpixel_outside thread hk c,
        fun e => exec_setpixel_outside (s := setEngine e s) thread hk c⟩
  · exact ⟨_, exec_fillall_thread thread c,
      fun e => exec_fillall_thread (s := setEngine e s) thread c⟩
  · by_cases hk : k < s.cfg.ledCount
    · exact ⟨_, exec_getpixel_inside thread hk,
        fun e => exec_getpixel_inside (s := setEngine e s) thread hk⟩
    · exact ⟨_, exec_getpixel_outside thread hk,
        fun e => exec_getpixel_outside (s := setEngine e s) thread hk⟩

theorem commandHeld_pixel : commandHeld i s = false := by
  rcases hi with ⟨k, c, rfl⟩ | ⟨c, rfl⟩ | ⟨k, rfl⟩
  · rfl
  · rfl
  · rfl

end

end Sys2Proof.Machine

/-! ## The statements -/

namespace Sys2Proof.Proofs

open Sys2Proof Sys2Proof.Machine

/-- Settles O12, by whether the index names an entry of the strip. -/
theorem setpixelWritesOneEntry : Obligations.SetpixelWritesOneEntry := by
  intro s i c thread hwf
  by_cases hi : i < s.cfg.ledCount
  · refine ⟨_, exec_setpixel_inside thread hi c, rfl, fun k => ?_⟩
    simp only [pixRead_pixWrite hwf, hi, and_true]
  · exact ⟨s, exec_setpixel_outside thread hi c, rfl, fun k => (if_neg fun h => hi h.2).symm⟩

/-- Settles O14: the entries written are those below the strip's length. -/
theorem fillallWritesEveryEntry : Obligations.FillallWritesEveryEntry :=
  fun _ c thread hwf => ⟨_, exec_fillall_thread thread c, rfl, pixRead_pixFill hwf c⟩

/-- Settles O17: for (c) the fill makes the entry show the colour, and no command between that
spares the entry ends that; the others follow from what SETPIXEL writes. -/
theorem pixelMemoryLaws : Obligations.PixelMemoryLaws := by
  intro s i c thread hwf
  obtain ⟨t, hexec, -, hread⟩ := setpixelWritesOneEntry s i c thread hwf
  refine ⟨fun hi => ?_, fun hi => ?_, fun hi between u spares h => ?_, fun k hk => ?_⟩
  · have written : pixRead (pixWrite i c s) i = c := (pixRead_pixWrite hwf i c i).trans (if_pos rfl)
    have shows : EntryShows i c (pixWrite i c s) := ⟨thread, hi, Memory.wf_write hwf, written⟩
    exact ⟨_, _, exec_setpixel_inside thread hi c, shows.exec_getpixel, rfl, rfl⟩
  · exact ⟨s, exec_setpixel_outside thread hi.not_gt c, rfl⟩
  · obtain ⟨v, hfill, hbetween⟩ := execAll_cons_next h
    obtain rfl : pixFill c s = v := by simpa [exec_fillall_thread thread] using hfill
    have shows : EntryShows i c (pixFill c s) := .of_pixFill thread hi hwf
    have after := shows.of_execAll (fun j hj => sparesEntry_of (spares j hj)) hbetween
    exact ⟨_, after.exec_getpixel, rfl⟩
  · exact ⟨t, hexec, (hread k).trans (if_neg fun h => hk h.1)⟩

/-- Settles O18: the command does the same with any values in the engine; with the engine's own
values that says that it leaves them. -/
theorem pixelCommandsIgnoreTheTransferEngine :
    Obligations.PixelCommandsIgnoreTheTransferEngine := by
  intro i s busy chEn tcPend stage cnt ptr thread hi
  obtain ⟨t, hexec, hengine⟩ := exec_pixel_setEngine hi thread
  have hown := hengine (engineOf s)
  rw [setEngine_engineOf, hexec] at hown
  have hkept : engineOf t = engineOf s :=
    (congrArg engineOf (Host.Outcome.next.inj hown)).trans (engineOf_setEngine _ t)
  obtain ⟨hbusy, hchEn, htcPend, hstage, hdmaCnt, hdmaPtr⟩ := Engine.mk.inj hkept
  exact ⟨commandHeld_pixel hi, t, hexec, hbusy, hchEn, htcPend, hstage, hdmaCnt, hdmaPtr,
    hengine ⟨busy, chEn, tcPend, stage, cnt, ptr⟩⟩

/-- Settles O13: the index names no entry to write. -/
theorem setpixelOutsideTheStripIsSilent : Obligations.SetpixelOutsideTheStripIsSilent :=
  fun _ _ c thread hi => exec_setpixel_outside thread hi.not_gt c

/-- Settles O15: the entry read goes to RDATA and to the responses. -/
theorem getpixelReturnsTheEntry : Obligations.GetpixelReturnsTheEntry :=
  fun _ _ thread hi => exec_getpixel_inside thread hi

/-- Settles O16: the fault raised is OOB_READ, whose issuer in the thread context is APP. -/
theorem getpixelOutsideTheStripFaults : Obligations.GetpixelOutsideTheStripFaults := by
  intro s i thread hi
  rw [exec_getpixel_outside thread hi.not_gt, raiseFault_of_thread thread]
  rfl

end Sys2Proof.Proofs
end

section
/-! The family of 41_encoder.md: a symbol byte decodes to its bit, the bytes of a colour are its wire
channels' bits, and a frame byte is the byte of the LED it falls to or an idle byte. -/

namespace Sys2Proof.Machine

/-! ## Symbols (R120, R126) -/

/-- `DEC` inverts `SYM`, because the symbols differ (R9). -/
theorem decodeSymbol_symbolOf (cfg : Config) (b : Bool) :
    decodeSymbol cfg.toParams (symbolOf cfg.toParams b) = some b := by
  cases b with
  | true => exact if_pos rfl
  | false => exact (if_neg (symbolZero_ne_symbolOne cfg)).trans (if_pos rfl)

theorem decodeSymbol_eq_none_iff (p : Params) (b : Byte) :
    decodeSymbol p b = none ↔ b ≠ p.symbolOne ∧ b ≠ p.symbolZero := by
  unfold decodeSymbol
  split_ifs with hone hzero
  · simp [hone]
  · simp [hzero]
  · simp [hone, hzero]

theorem symbolOf_injective (cfg : Config) : Function.Injective (symbolOf cfg.toParams) :=
  fun a b h => Option.some.inj <| by
    rw [← decodeSymbol_symbolOf cfg a, h, decodeSymbol_symbolOf cfg b]

/-- R10: no symbol is the idle byte. -/
theorem symbolOf_ne_idleByte (cfg : Config) (b : Bool) :
    symbolOf cfg.toParams b ≠ cfg.idleByte := by
  cases b with
  | true => exact (idleByte_ne cfg).2.symm
  | false => exact (idleByte_ne cfg).1.symm

/-! ## The bytes of a colour (R121, R122) -/

/-- R122: the wire bits of a colour are the word `{G, R, B}` from bit 23 down. -/
theorem wireBit_eq_getLsbD (c : Color) {k : Nat} (hk : k < 24) :
    wireBit c k = (greenOf c ++ redOf c ++ blueOf c).getLsbD (23 - k) := by
  rw [wireBit, wireChannel, BitVec.getLsbD_append, BitVec.getLsbD_append]
  by_cases hgreen : k < 8
  · have hdiv : k / 8 = 0 := by omega
    have hpos : 23 - k - 8 - 8 = 7 - k % 8 := by omega
    rw [if_pos hdiv, if_neg (by omega), if_neg (by omega), hpos]
  · by_cases hred : k < 16
    · have hdiv : k / 8 = 1 := by omega
      have hpos : 23 - k - 8 = 7 - k % 8 := by omega
      rw [if_neg (by omega), if_pos hdiv, if_neg (by omega), if_pos (by omega), hpos]
    · have hpos : 23 - k = 7 - k % 8 := by omega
      rw [if_neg (by omega), if_neg (by omega), if_pos (by omega), hpos]

/-- R124: the position of a channel's bit among the 24 bytes. -/
theorem wireBit_channel (c : Color) {w b : Nat} (hb : b < 8) :
    wireBit c (8 * w + (7 - b)) = (wireChannel c w).getLsbD b := by
  have hdiv : (8 * w + (7 - b)) / 8 = w := by omega
  have hmod : 7 - (8 * w + (7 - b)) % 8 = b := by omega
  rw [wireBit, hdiv, hmod]

theorem rgb_channels (c : Color) : rgb (redOf c) (greenOf c) (blueOf c) = c := by
  unfold rgb redOf greenOf blueOf
  rw [BitVec.extractLsb'_append_extractLsb'_eq_extractLsb' (by rfl),
    BitVec.extractLsb'_append_extractLsb'_eq_extractLsb' (by rfl), BitVec.extractLsb'_eq_self]

/-- The 24 bytes of a colour determine its channels bit by bit (R126). -/
theorem eq_of_encodeByte_eq (cfg : Config) {c d : Color}
    (h : ∀ k, k < 24 → encodeByte cfg.toParams c k = encodeByte cfg.toParams d k) : c = d := by
  have hchannel : ∀ w, w < 3 → wireChannel c w = wireChannel d w := fun w hw =>
    BitVec.eq_of_getLsbD_eq fun b hb => by
      rw [← wireBit_channel c hb, ← wireBit_channel d hb]
      exact symbolOf_injective cfg (h _ (by omega))
  have hgreen : greenOf c = greenOf d := hchannel 0 (by decide)
  have hred : redOf c = redOf d := hchannel 1 (by decide)
  have hblue : blueOf c = blueOf d := hchannel 2 (by decide)
  rw [← rgb_channels c, ← rgb_channels d, hgreen, hred, hblue]

theorem getElem?_encodeColor (p : Params) (c : Color) {k : Nat} (hk : k < 24) :
    (encodeColor p c)[k]? = some (encodeByte p c k) := by
  simp [encodeColor, hk]

/-- The symbol bytes of one channel, most significant bit first (R121). -/
def encodeChannel (p : Params) (b : BitVec 8) : List Byte :=
  [7, 6, 5, 4, 3, 2, 1, 0].map fun k => symbolOf p (b.getLsbD k)

theorem encodeColor_eq_channels (p : Params) (c : Color) : encodeColor p c =
    encodeChannel p (greenOf c) ++ encodeChannel p (redOf c) ++ encodeChannel p (blueOf c) := rfl

theorem encodeChannel_zero (p : Params) :
    encodeChannel p 0x00 = List.replicate 8 p.symbolZero := rfl

theorem encodeChannel_ones (p : Params) :
    encodeChannel p 0xFF = List.replicate 8 p.symbolOne := rfl

/-! ## The bytes of a frame (R123) -/

section
variable {p : Params} {P Q : Nat → Color} {c i j : Nat}

theorem frameByte_symbol (hi : i < c) (hj : j < 24) :
    frameByte p P c (i * 24 + j) = encodeByte p (P i) j := by
  have hdiv : (i * 24 + j) / 24 = i := by omega
  have hmod : (i * 24 + j) % 24 = j := by omega
  rw [frameByte, if_pos (by omega), hdiv, hmod]

theorem frameByte_idle (h : 24 * c ≤ j) : frameByte p P c j = p.idleByte := if_neg h.not_gt

theorem frameByte_congr (h : ∀ i, i < c → P i = Q i) : frameByte p P c j = frameByte p Q c j := by
  by_cases hj : j < 24 * c
  · rw [frameByte, frameByte, h (j / 24) (Nat.div_lt_of_lt_mul hj)]
  · rw [frameByte_idle (not_lt.1 hj), frameByte_idle (not_lt.1 hj)]

theorem getElem?_frame (h : j < transferLength p c) :
    (frame p P c)[j]? = some (frameByte p P c j) := by
  simp [frame, h]

/-- R124: where a channel's bit stands in the frame. -/
theorem getElem?_frame_channel {w b : Nat} (hi : i < c) (hw : w < 3) (hb : b < 8) :
    (frame p P c)[i * 24 + 8 * w + (7 - b)]? =
      some (symbolOf p ((wireChannel (P i) w).getLsbD b)) := by
  rw [getElem?_frame (by unfold transferLength; omega), Nat.add_assoc,
    frameByte_symbol hi (by omega), encodeByte, wireBit_channel _ hb]

end

/-- An indexed sequence of `c` blocks of `n`, block by block. -/
theorem map_range_mul {α : Type} (f : Nat → α) (c n : Nat) : (List.range (c * n)).map f =
    (List.range c).flatMap fun i => (List.range n).map fun j => f (i * n + j) := by
  induction c with
  | zero => simp
  | succ c ih => simp [Nat.succ_mul, List.range_add, List.range_succ, ih]

/-- R123: the encodings in strip order, then the reset gap. -/
theorem frame_eq_append (p : Params) (P : Nat → Color) (c : Nat) : frame p P c =
    (List.range c).flatMap (fun i => encodeColor p (P i)) ++
      List.replicate p.resetBytes p.idleByte := by
  have hsymbols : (List.range (c * 24)).map (frameByte p P c) =
      (List.range c).flatMap fun i => encodeColor p (P i) := by
    rw [map_range_mul]
    refine List.flatMap_congr fun i hi => List.map_congr_left fun j hj => ?_
    exact frameByte_symbol (List.mem_range.1 hi) (List.mem_range.1 hj)
  have hgap : ((List.range p.resetBytes).map (c * 24 + ·)).map (frameByte p P c) =
      List.replicate p.resetBytes p.idleByte := by
    refine (List.map_map ..).trans (List.eq_replicate_iff.2 ⟨by simp, fun b hb => ?_⟩)
    obtain ⟨j, -, rfl⟩ := List.mem_map.1 hb
    have hpast : 24 * c ≤ c * 24 + j := by omega
    exact frameByte_idle hpast
  rw [frame, transferLength, List.range_add, List.map_append, hsymbols, hgap]

/-- A frame's length determines its count (R123). -/
theorem count_eq_of_frame_eq {p : Params} {P Q : Nat → Color} {c d : Nat}
    (h : frame p P c = frame p Q d) : c = d := by
  have hlength := congrArg List.length h
  simp only [length_frame, transferLength] at hlength
  omega

/-- R126: the first idle byte ends the symbols. -/
theorem findIdx?_idleByte_frame (cfg : Config) (P : Nat → Color) (c : Nat) :
    (frame cfg.toParams P c).findIdx? (· == cfg.idleByte) = some (24 * c) := by
  have hreset := one_le_resetBytes cfg
  refine List.findIdx?_eq_some_iff_getElem.2 ⟨?_, ?_, fun j hj => ?_⟩
  · rw [length_frame, transferLength]; omega
  · rw [getElem_frame, frameByte_idle le_rfl]; exact beq_self_eq_true _
  · rw [getElem_frame, frameByte, if_pos hj]
    exact mt beq_iff_eq.1 (symbolOf_ne_idleByte cfg _)

/-! ## A REFRESH that is performed (R125, R140) -/

section
variable {s t : State} {n : Nat}

theorem pix_eq_of_exec_refresh (h : exec (.refresh n) s = .next t) : t.pix = s.pix := by
  cases exec_effect h with
  | nothing => rfl
  | faulted => rfl
  | wroteEntry _ _ hi => cases hi
  | filled _ hi => cases hi
  | responded => rfl
  | started => rfl
  | released hi => cases hi

/-- A REFRESH that answers a next state was presented with `INIT_DONE` (R206). -/
theorem initDone_of_exec_refresh (h : exec (.refresh n) s = .next t) :
    s.agents.initDone = true := by
  by_contra hinit
  simp [exec, execRefresh, hinit] at h

/-- The bytes that a performed REFRESH leaves in `STAGE`. -/
theorem stageRead_of_exec_refresh {c j : Nat} (hwf : s.stage.wf = true)
    (hc : effectiveCount s.cfg.toParams n = some c) (thread : s.inIrq = false)
    (idle : s.busy = false) (h : exec (.refresh n) s = .next t)
    (hj : j < transferLength s.cfg.toParams c) :
    stageRead t j = frameByte s.cfg.toParams (pixRead s) c j := by
  rw [exec_refresh_starts thread (initDone_of_exec_refresh h) idle hc] at h
  cases h
  rw [stageRead_startTransfer hwf, if_pos hj]

end

end Sys2Proof.Machine

/-! ## The statements -/

namespace Sys2Proof.Proofs

open Sys2Proof Sys2Proof.Machine

/-- Settles O22: `DEC` inverts `SYM`, and the wire bits are those of `{G, R, B}`. -/
theorem encodedColorDecodesToGreenRedBlue : Obligations.EncodedColorDecodesToGreenRedBlue := by
  refine fun cfg => ⟨fun c => ?_, decodeSymbol_eq_none_iff cfg.toParams⟩
  rw [encodeColor, List.map_map]
  refine List.map_congr_left fun k hk => ?_
  calc decodeSymbol cfg.toParams (encodeByte cfg.toParams c k)
      _ = some (wireBit c k) := decodeSymbol_symbolOf cfg _
      _ = _ := congrArg some (wireBit_eq_getLsbD c (List.mem_range.1 hk))

/-- Settles O23: the bytes of a colour determine it, and a frame holds those bytes for every LED
below the count, which its length determines. -/
theorem frameDeterminesItsPixels : Obligations.FrameDeterminesItsPixels := by
  refine fun cfg => ⟨fun c d h => ?_, fun P Q c d h => ?_, findIdx?_idleByte_frame cfg⟩
  · refine eq_of_encodeByte_eq cfg fun k hk => Option.some.inj ?_
    rw [← getElem?_encodeColor _ c hk, ← getElem?_encodeColor _ d hk, h]
  · obtain rfl := count_eq_of_frame_eq h
    refine ⟨rfl, fun i hi => eq_of_encodeByte_eq cfg fun k hk => Option.some.inj ?_⟩
    have hlt : i * 24 + k < transferLength cfg.toParams c := by unfold transferLength; omega
    rw [← frameByte_symbol hi hk, ← frameByte_symbol hi hk, ← getElem?_frame hlt,
      ← getElem?_frame hlt, h]

/-- Settles O24: channel `w` begins at offset `8*w`. -/
theorem framePositionFormula : Obligations.FramePositionFormula := by
  intro p P c i b hi hb
  refine ⟨getElem?_frame_channel (w := 0) hi (by decide) hb,
    getElem?_frame_channel (w := 1) hi (by decide) hb,
    getElem?_frame_channel (w := 2) hi (by decide) hb, fun w hw => ⟨by omega, by omega, by omega⟩⟩

/-- Settles O25: the symbols are 24 bytes for each LED, and every byte after them is idle. -/
theorem frameIsEncodingsThenGap : Obligations.FrameIsEncodingsThenGap := frame_eq_append

/-- Settles O26: every byte of a frame is of an entry below the count or idle. -/
theorem frameReadsOnlyItsPixels : Obligations.FrameReadsOnlyItsPixels :=
  ⟨fun _ _ _ _ h => List.map_congr_left fun _ _ => frameByte_congr h,
    fun _ _ _ h => pix_eq_of_exec_refresh h⟩

/-- Settles O28: both leave the bytes of the one frame. -/
theorem samePixelsGiveTheSameFrame : Obligations.SamePixelsGiveTheSameFrame := by
  intro s s' t t' n n' c hcfg hpix hwf hwf' hc hc' thread thread' idle idle' h h' j hj
  have hread : pixRead s = pixRead s' := congrArg Memory.read hpix
  rw [stageRead_of_exec_refresh hwf hc thread idle h hj, hcfg, hread]
  rw [hcfg] at hc' hj
  exact (stageRead_of_exec_refresh hwf' hc' thread' idle' h' hj).symm

/-- Settles O27: every channel of the three colours is 0x00 or 0xFF, and the frame of count 0 is the
gap alone. -/
theorem workedEncodings : Obligations.WorkedEncodings := by
  intro p P
  have hred : encodeColor p 0xFF0000 =
      encodeChannel p 0x00 ++ encodeChannel p 0xFF ++ encodeChannel p 0x00 :=
    encodeColor_eq_channels p _
  have hgreen : encodeColor p 0x00FF00 =
      encodeChannel p 0xFF ++ encodeChannel p 0x00 ++ encodeChannel p 0x00 :=
    encodeColor_eq_channels p _
  have hblue : encodeColor p 0x0000FF =
      encodeChannel p 0x00 ++ encodeChannel p 0x00 ++ encodeChannel p 0xFF :=
    encodeColor_eq_channels p _
  rw [hred, hgreen, hblue, encodeChannel_zero, encodeChannel_ones]
  exact ⟨rfl, rfl, rfl, frame_eq_append p P 0⟩

end Sys2Proof.Proofs
end

section
/-! The family of 42_transfer.md: the frames on the wire, the transfer that a REFRESH starts, and
the turns that carry it to its end. -/

namespace Sys2Proof.Machine

/-! ## A REFRESH by its effective count (R140, R143) -/

section
variable {s : State} {n m c : Nat}

theorem effectiveCount_of_clamp {p : Params} (h : n ≤ p.ledCount ∨ p.oversize = .clamp) :
    effectiveCount p n = some (if n ≤ p.ledCount then n else p.ledCount) := by
  by_cases hn : n ≤ p.ledCount
  · simp [effectiveCount, hn]
  · simp [effectiveCount, hn, h.resolve_left hn]

theorem effectiveCount_of_reject {p : Params} (hn : p.ledCount < n) (h : p.oversize = .reject) :
    effectiveCount p n = none := by
  simp [effectiveCount, hn.not_ge, h]

/-- A REFRESH reads its count through the effective count only. -/
theorem exec_refresh_congr (h : effectiveCount s.cfg.toParams n = effectiveCount s.cfg.toParams m) :
    exec (.refresh n) s = exec (.refresh m) s := by
  simp only [exec, execRefresh, inThread, h]

theorem commandHeld_refresh_congr
    (h : effectiveCount s.cfg.toParams n = effectiveCount s.cfg.toParams m) :
    commandHeld (.refresh n) s = commandHeld (.refresh m) s := by
  simp only [commandHeld, refreshHeld, h]

/-- R143: a rejected REFRESH is performed without effect, and never held. -/
theorem exec_refresh_rejected (thread : s.inIrq = false) (hinit : s.agents.initDone = true)
    (hc : effectiveCount s.cfg.toParams n = none) :
    exec (.refresh n) s = .next s := by
  simp [exec, execRefresh, inThread_of_thread thread, hinit, hc]

theorem commandHeld_refresh_rejected (hc : effectiveCount s.cfg.toParams n = none) :
    commandHeld (.refresh n) s = false := by
  simp [commandHeld, refreshHeld, hc]

theorem commandHeld_refresh_idle (hidle : s.busy = false) :
    commandHeld (.refresh n) s = false := by
  simp [commandHeld, refreshHeld, hidle]

/-- R11: the length of a frame of the strip is not cut off. -/
theorem startTransfer_dmaCnt_of_le (hc : c ≤ s.cfg.ledCount) :
    (startTransfer c s).dmaCnt = transferLength s.cfg.toParams c :=
  fitCounter_transferLength hc

/-- R140, R145: all that the start of a transfer writes, beside `STAGE`. -/
theorem startTransfer_eq (hc : c ≤ s.cfg.ledCount) :
    startTransfer c s = { s with
      busy := true, chEn := true, dmaCnt := c * 24 + s.cfg.resetBytes, dmaPtr := 0,
      stage := (startTransfer c s).stage } := by
  have hcnt : (startTransfer c s).dmaCnt = c * 24 + s.cfg.resetBytes :=
    startTransfer_dmaCnt_of_le hc
  rw [← hcnt]
  rfl

/-- The counter holds a value of `LEN_WIDTH` bits (R26). -/
theorem startTransfer_dmaCnt_lt (c : Nat) (s : State) :
    (startTransfer c s).dmaCnt < 2 ^ s.cfg.lenWidth :=
  Nat.mod_lt _ (Nat.two_pow_pos _)

/-- R52, R125: no byte past `L_MAX` is written. -/
theorem stageRead_startTransfer_past (hwf : s.stage.wf = true) (hc : c ≤ s.cfg.ledCount) {j : Nat}
    (hj : stageLength s.cfg.toParams ≤ j) : stageRead (startTransfer c s) j = stageRead s j := by
  have hlength : transferLength s.cfg.toParams c ≤ j := (transferLength_le hc).trans hj
  rw [stageRead_startTransfer hwf, if_neg hlength.not_gt]

end

/-! ## APP's turn with a command that is not held (R78) -/

theorem step_app_command {s : State} {w : Word} {rest : List Word} {i : Instr}
    (hturn : nextTurn s = .app) (hs : s.agents.stream = w :: rest) (may : appMayIssue s = true)
    (hd : decode w = .command i) (hfree : commandHeld i s = false) :
    step s = exec i (popCommand (takeTurn s)) :=
  (step_eq hturn).trans
    (appStep_command (s := takeTurn s) hs may hd ((commandHeld_takeTurn i s).trans hfree))

/-- APP's turn performs a REFRESH at the port in the thread context with `BUSY = 0` (R140). -/
theorem step_refresh_starts {s : State} {w : Word} {rest : List Word} {n c : Nat}
    (port : RefreshAtPort w rest n c s) (thread : s.inIrq = false) (hidle : s.busy = false)
    (hturn : nextTurn s = .app) :
    step s = .next (startTransfer c (popCommand (takeTurn s))) := by
  have may : appMayIssue s = true := (appMayIssue_iff s).2 ⟨thread, port.running⟩
  rw [step_app_command hturn port.stream may port.decoded (commandHeld_refresh_idle hidle)]
  exact exec_refresh_starts thread port.init hidle port.count

/-! ## The elements of the transfer engine that a word at the port writes -/

/-- What has been sent and what is left to send are as in `s`: the elements that R152 speaks of. -/
def SameTransfer (s t : State) : Prop :=
  t.stage = s.stage ∧ t.chEn = s.chEn ∧ t.dmaCnt = s.dmaCnt ∧ t.dmaPtr = s.dmaPtr ∧
  t.wire = s.wire

theorem sameTransfer_refl (s : State) : SameTransfer s s := ⟨rfl, rfl, rfl, rfl, rfl⟩

/-- A command leaves the transfer as it is, or is a REFRESH that starts one (R103, R140, R147). -/
theorem CommandEffect.sameTransfer_or_started {i : Instr} {s t : State}
    (h : CommandEffect i s t) : SameTransfer s t ∨
      ∃ n c, i = .refresh n ∧ s.inIrq = false ∧ s.busy = false ∧
        effectiveCount s.cfg.toParams n = some c ∧ t = startTransfer c s := by
  cases h with
  | started n c hi thread init hc idle => exact .inr ⟨n, c, hi, thread, idle, hc, rfl⟩
  | _ => exact .inl (sameTransfer_refl s)

theorem IssueEffect.sameTransfer_or_started {w : Word} {s t : State} (h : IssueEffect w s t) :
    SameTransfer s t ∨
      ∃ n c, decode w = .command (.refresh n) ∧ s.inIrq = false ∧ s.busy = false ∧
        effectiveCount s.cfg.toParams n = some c ∧ t = startTransfer c s := by
  cases h with
  | rejected => exact .inl (sameTransfer_refl s)
  | command i hd h =>
    rcases h.sameTransfer_or_started with hsame | ⟨n, c, rfl, hstarted⟩
    · exact .inl hsame
    · exact .inr ⟨n, c, hd, hstarted⟩

/-! ## The frames on the wire (R152) -/

section
variable {s t : State} {frames : List (List Byte)} {f : List Byte}

theorem wireIsFrames_nil : WireIsFrames [] s ↔ s.wire = [] ∧ s.chEn = false := Iff.rfl

theorem wireIsFrames_concat : WireIsFrames (frames ++ [f]) s ↔
    s.wire = frames.flatten ++ f.take s.dmaPtr ∧ s.chEn = true ∧
      s.dmaPtr + s.dmaCnt = f.length ∧ ∀ j, (h : j < f.length) → stageRead s j = f[j] := by
  simp [WireIsFrames]

theorem WireIsFrames.of_sameTransfer (h : WireIsFrames frames s) (hsame : SameTransfer s t) :
    WireIsFrames frames t := by
  obtain ⟨hstage, hen, hcnt, hptr, hwire⟩ := hsame
  simpa only [WireIsFrames, stageRead, hstage, hcnt, hptr, hwire, hen] using h

/-- Where nothing is left to move, the wire is all the frames whole. -/
theorem WireIsFrames.wire_eq_flatten (h : WireIsFrames frames s) (hcnt : s.dmaCnt = 0) :
    s.wire = frames.flatten := by
  rcases List.eq_nil_or_concat frames with rfl | ⟨earlier, f, rfl⟩
  · exact (wireIsFrames_nil.1 h).1
  · rw [List.concat_eq_append] at h ⊢
    obtain ⟨hwire, -, hlength, -⟩ := wireIsFrames_concat.1 h
    have hptr : s.dmaPtr = f.length := by omega
    rw [hwire, hptr, List.take_length]
    simp

/-- A transfer that starts adds its frame, of which nothing is sent yet (R140). -/
theorem WireIsFrames.of_startTransfer (h : WireIsFrames frames s) (hcnt : s.dmaCnt = 0)
    (hwf : s.stage.wf = true) {c : Nat} (hc : c ≤ s.cfg.ledCount) :
    WireIsFrames (frames ++ [frame s.cfg.toParams (pixRead s) c]) (startTransfer c s) := by
  refine wireIsFrames_concat.2 ⟨?_, rfl, ?_, fun j hj => ?_⟩
  · simpa using h.wire_eq_flatten hcnt
  · rw [startTransfer_dmaPtr, startTransfer_dmaCnt_of_le hc, length_frame, Nat.zero_add]
  · rw [getElem_frame, stageRead_startTransfer hwf, if_pos (by simpa using hj)]

/-- The byte that a DMA step moves is the next one of the latest frame (R150). -/
theorem WireIsFrames.of_moveByte (h : WireIsFrames frames s) (hen : s.chEn = true)
    (hcnt : 0 < s.dmaCnt) : WireIsFrames frames (moveByte (stageRead s s.dmaPtr) s) := by
  rcases List.eq_nil_or_concat frames with rfl | ⟨earlier, f, rfl⟩
  · exact absurd (hen.symm.trans (wireIsFrames_nil.1 h).2) (by decide)
  · rw [List.concat_eq_append] at h ⊢
    obtain ⟨hwire, -, hlength, hstage⟩ := wireIsFrames_concat.1 h
    have hptr : s.dmaPtr < f.length := by omega
    refine wireIsFrames_concat.2 ⟨?_, hen, ?_, hstage⟩
    · rw [moveByte_wire, moveByte_dmaPtr, hwire, hstage _ hptr, List.append_assoc,
        List.take_append_getElem hptr]
    · rw [moveByte_dmaPtr, moveByte_dmaCnt]
      omega

/-- Reset begins again with an empty wire and no frame (R203). -/
theorem wireIsFrames_resetBlock (pixel : Nat → Color) (staged : Nat → Byte) (rdata : Color)
    (commands : List Word) (s : State) :
    WireIsFrames [] (resetBlock pixel staged rdata commands s) :=
  wireIsFrames_nil.2 ⟨rfl, rfl⟩

end

/-! ## The frame that a step starts (R140, R152) -/

section
variable {s t : State} {frames : List (List Byte)} {f : List Byte}

theorem startedFrame_of_not_app (h : nextTurn s ≠ .app) : startedFrame s = none := by
  unfold startedFrame
  split
  · next happ _ => exact absurd happ h
  · rfl

theorem startedFrame_of_refresh {w : Word} {rest : List Word} {n c : Nat}
    (hturn : nextTurn s = .app) (hs : s.agents.stream = w :: rest)
    (hd : decode w = .command (.refresh n)) (may : appMayIssue s = true) (idle : s.busy = false)
    (hc : effectiveCount s.cfg.toParams n = some c) :
    startedFrame s = some (frame s.cfg.toParams (pixRead s) c) := by
  simp [startedFrame, hturn, hs, hd, may, idle, hc]

/-- A frame is started only by a REFRESH that APP may issue while `BUSY = 0`. -/
theorem refresh_of_startedFrame (h : startedFrame s = some f) :
    ∃ w rest n c, nextTurn s = .app ∧ s.agents.stream = w :: rest ∧
      decode w = .command (.refresh n) ∧ appMayIssue s = true ∧ s.busy = false ∧
      effectiveCount s.cfg.toParams n = some c ∧ f = frame s.cfg.toParams (pixRead s) c := by
  unfold startedFrame at h
  split at h
  · next w rest hturn hs =>
    split at h
    · next n hd =>
      split at h
      · next hfree =>
        obtain ⟨may, idle⟩ : appMayIssue s = true ∧ s.busy = false := by simpa using hfree
        obtain ⟨c, hc, rfl⟩ := Option.map_eq_some_iff.1 h
        exact ⟨w, rest, n, c, hturn, hs, hd, may, idle, hc, rfl⟩
      · cases h
    · cases h
  · cases h

theorem framesAfter_reset {cs : List Word} (h : nextTurn s = .reset cs) :
    framesAfter frames s = [] := by
  simp only [framesAfter, h]

theorem framesAfter_started (h : startedFrame s = some f) :
    framesAfter frames s = frames ++ [f] := by
  obtain ⟨_, _, _, _, hturn, -⟩ := refresh_of_startedFrame h
  simp only [framesAfter, hturn, h]

theorem framesAfter_not_started (hreset : ∀ cs, nextTurn s ≠ .reset cs)
    (h : startedFrame s = none) : framesAfter frames s = frames := by
  unfold framesAfter
  split
  · next cs hturn => exact absurd hturn (hreset cs)
  · rw [h]

/-- The step that starts a frame performs a REFRESH of that frame: without `INIT_DONE` it would
answer no next state (R206). -/
theorem step_of_startedFrame (hstarted : startedFrame s = some f)
    (h : step s = .next t) : ∃ c, c ≤ s.cfg.ledCount ∧ s.busy = false ∧
      f = frame s.cfg.toParams (pixRead s) c ∧ t = startTransfer c (popCommand (takeTurn s)) := by
  obtain ⟨w, rest, n, c, hturn, hs, hd, may, idle, hc, hf⟩ := refresh_of_startedFrame hstarted
  have hexec := step_app_command hturn hs may hd (commandHeld_refresh_idle idle)
  have hinit : (popCommand (takeTurn s)).agents.initDone = true :=
    initDone_of_exec_refresh (hexec.symm.trans h)
  obtain ⟨thread, running⟩ := (appMayIssue_iff s).1 may
  have hstart := step_refresh_starts ⟨hs, running, hinit, hd, hc⟩ thread idle hturn
  exact ⟨c, effectiveCount_le hc, idle, hf, Host.Outcome.next.inj (h.symm.trans hstart)⟩

/-- A step that starts no frame and is no reset moves a byte or leaves the transfer as it is. -/
theorem sameTransfer_or_moved (hreset : ∀ cs, nextTurn s ≠ .reset cs)
    (hnone : startedFrame s = none) (h : step s = .next t) :
    SameTransfer s t ∨ (s.chEn = true ∧ 0 < s.dmaCnt ∧
      t = moveByte (stageRead s s.dmaPtr) (takeTurn s)) := by
  cases step_effect h with
  | app hturn w rest hs may _ ht =>
    rcases ht.sameTransfer_or_started with hsame | ⟨n, c, hd, -, idle, hc, -⟩
    · exact .inl hsame
    · simp [startedFrame_of_refresh hturn hs hd may idle hc] at hnone
  | irq _ may ht =>
    rcases ht.sameTransfer_or_started with hsame | ⟨n, c, -, thread, -⟩
    · exact .inl hsame
    · exact absurd thread (not_thread_of_irqMayIssue may)
  | dma _ enabled =>
    obtain ⟨hen, hcnt⟩ := (dmaEnabled_iff s).1 enabled
    exact .inr ⟨hen, hcnt, rfl⟩
  | reset cs hturn => exact absurd hturn (hreset cs)
  | _ => exact .inl (sameTransfer_refl s)

/-- R152 is kept by every step. -/
theorem WireIsFrames.of_step (h : WireIsFrames frames s) (inv : BlockInv s)
    (hstep : step s = .next t) : WireIsFrames (framesAfter frames s) t := by
  by_cases hreset : ResetIsNext s
  · obtain ⟨cs, hturn⟩ := hreset
    rw [framesAfter_reset hturn]
    obtain rfl : _ = t := Host.Outcome.next.inj ((step_eq hturn).symm.trans hstep)
    exact wireIsFrames_resetBlock _ _ _ _ _
  have hno : ∀ cs, nextTurn s ≠ .reset cs := not_exists.1 hreset
  cases hstarted : startedFrame s with
  | some f =>
    obtain ⟨c, hc, idle, rfl, rfl⟩ := step_of_startedFrame hstarted hstep
    obtain ⟨hcnt, -⟩ := inv.idle idle
    have hport : WireIsFrames frames (popCommand (takeTurn s)) := h
    rw [framesAfter_started hstarted]
    exact hport.of_startTransfer hcnt inv.stage_wf hc
  | none =>
    rw [framesAfter_not_started hno hstarted]
    rcases sameTransfer_or_moved hno hstarted hstep with hsame | ⟨hen, hcnt, rfl⟩
    · exact h.of_sameTransfer hsame
    · have htaken : WireIsFrames frames (takeTurn s) := h
      exact htaken.of_moveByte hen hcnt

end

/-! ## COMPLETE with nothing to release (R147) -/

theorem exec_complete_spurious {s : State} (interrupt : s.inIrq = true) (hidle : s.busy = false) :
    exec .complete s = .next (raiseFault .spuriousComplete s) := by
  simp [exec, execComplete, inInterrupt, interrupt, hidle]

/-! ## The agents' turns (R150, R175, R176) -/

theorem dmaEnabled_eq_false_of_dmaCnt {s : State} (h : s.dmaCnt = 0) : dmaEnabled s = false := by
  simp [dmaEnabled, h]

theorem dmaEnabled_eq_false_of_chEn {s : State} (h : s.chEn = false) : dmaEnabled s = false := by
  simp [dmaEnabled, h]

/-- `TC_PEND` after a DMA step that found `cnt` bytes to move: set with the last one (R150). -/
theorem pendingAfter_sub_one {cnt : Nat} (h : 0 < cnt) (tcPend : Bool) :
    pendingAfter (cnt - 1) tcPend = if cnt = 1 then true else tcPend :=
  if_congr (by omega) rfl rfl

theorem step_dma_of_enabled {s : State} (inv : BlockInv s) (hturn : nextTurn s = .dma)
    (h : dmaEnabled s = true) : step s = .next (moveByte (stageRead s s.dmaPtr) (takeTurn s)) :=
  (step_eq hturn).trans (dmaStep_of_enabled (inv.of_agents _) h)

theorem step_entry_of_enabled {s : State} (hturn : nextTurn s = .entry)
    (h : entryEnabled s = true) : step s = .next (enterInterrupt (takeTurn s)) :=
  (step_eq hturn).trans (entryStep_of_enabled (s := takeTurn s) h)

/-- IRQ's turn performs the handler's COMPLETE (R147, R176). -/
theorem step_irq_releases {s : State} (ready : HandlerReady s) (hturn : nextTurn s = .irq)
    (interrupt : s.inIrq = true) (hbusy : s.busy = true) :
    step s = .next (returnFromInterrupt (releaseBusy (takeTurn s))) := by
  have hrun : s.agents.irqStopped = false := ready.2
  have may : irqMayIssue (takeTurn s) = true := (irqMayIssue_iff _).2 ⟨interrupt, hrun⟩
  calc step s = irqStep (takeTurn s) := step_eq hturn
    _ = exec .complete (takeTurn s) := irqStep_command may ready.decode_handlerWord
    _ = _ := exec_complete_releases interrupt hbusy

/-! ## A transfer whose turns come one after another (R146, R188) -/

theorem takeTurn_cons {s : State} {a : Turn} {rest : List Turn}
    (h : s.agents.schedule = a :: rest) : takeTurn s = { s with
      agents := { s.agents with schedule := rest, tick := s.agents.tick + 1 } } := by
  simp [takeTurn, turnsAhead_cons h]

/-- The transfer of `s` has ended, in as many turns as it had bytes left and two more; `rest` of the
schedule remains. -/
def completed (s : State) (rest : List Turn) : State :=
  { s with
    busy := false
    tcPend := false
    inIrq := false
    dmaCnt := 0
    dmaPtr := s.dmaPtr + s.dmaCnt
    wire := pledgedWire s
    agents :=
      { s.agents with schedule := rest, tick := s.agents.tick + (s.dmaCnt + 2) } }

/-- A notified transfer ends with an entry and the handler (R175, R176). -/
theorem run_entry_irq {s : State} {rest : List Turn} (inv : BlockInv s) (ready : HandlerReady s)
    (hpend : s.tcPend = true) (hsched : s.agents.schedule = .entry :: .irq :: rest) :
    run 2 s = .next (completed s rest) := by
  obtain ⟨hbusy, hcnt, thread⟩ := inv.pending hpend
  have hentry := step_entry_of_enabled (nextTurn_cons hsched)
    ((entryEnabled_iff s).2 ⟨hpend, thread⟩)
  have hleft : (enterInterrupt (takeTurn s)).agents.schedule = .irq :: rest :=
    congrArg List.tail (turnsAhead_cons hsched)
  have hirq := step_irq_releases (s := enterInterrupt (takeTurn s)) ready (nextTurn_cons hleft)
    rfl hbusy
  rw [run_succ hentry, run_succ hirq, run, takeTurn_cons hleft, takeTurn_cons hsched]
  simp [completed, pledgedWire, hcnt, enterInterrupt, releaseBusy, returnFromInterrupt]

/-- Moving a byte leaves the same transfer to complete, a turn later (R150). -/
theorem completed_moveByte {s : State} {rest : List Turn} (hcnt : 0 < s.dmaCnt) :
    completed (moveByte (stageRead s s.dmaPtr) (takeTurn s)) rest = completed s rest := by
  have hwire : pledgedWire (moveByte (stageRead s s.dmaPtr) (takeTurn s)) = pledgedWire s :=
    pledgedWire_moveByte (s := takeTurn s) hcnt
  have hptr : s.dmaPtr + 1 + (s.dmaCnt - 1) = s.dmaPtr + s.dmaCnt := by omega
  have htick : s.agents.tick + 1 + (s.dmaCnt - 1 + 2) = s.agents.tick + (s.dmaCnt + 2) := by omega
  simp [completed, hwire, hptr, htick]

/-- R146: a turn of the DMA agent for each byte left, an entry and the handler complete a transfer
in flight. -/
theorem run_completes {n : Nat} {s : State} {rest : List Turn} (inv : BlockInv s)
    (ready : HandlerReady s) (hbusy : s.busy = true) (thread : s.inIrq = false)
    (hcnt : s.dmaCnt = n)
    (hsched : s.agents.schedule = List.replicate n .dma ++ (Turn.entry :: .irq :: rest)) :
    run (n + 2) s = .next (completed s rest) := by
  induction n generalizing s with
  | zero =>
    have hpend : s.tcPend = true := by simpa [hcnt, thread] using inv.in_flight hbusy
    exact run_entry_irq inv ready hpend hsched
  | succ n ih =>
    have hpos : 0 < s.dmaCnt := hcnt ▸ n.succ_pos
    have hstep := step_dma_of_enabled inv (nextTurn_cons hsched) (inv.dmaEnabled hpos)
    have hleft := (step_schedule hstep).trans (congrArg List.tail (turnsAhead_cons hsched))
    have hmoved : (moveByte (stageRead s s.dmaPtr) (takeTurn s)).dmaCnt = n := by simp [hcnt]
    rw [Nat.add_right_comm, run_succ hstep, ← completed_moveByte hpos]
    exact ih (inv.of_step hstep) ready hbusy thread hmoved hleft

/-- R144, R145: what a transfer that starts will have sent is its whole frame. -/
theorem pledgedWire_startTransfer {s : State} (hwf : s.stage.wf = true) {c : Nat}
    (hc : c ≤ s.cfg.ledCount) :
    pledgedWire (startTransfer c s) = s.wire ++ frame s.cfg.toParams (pixRead s) c := by
  rw [pledgedWire, startTransfer_dmaCnt_of_le hc, startTransfer_wire, startTransfer_dmaPtr,
    frame]
  refine congrArg (s.wire ++ ·) (List.map_congr_left fun j hj => ?_)
  rw [Nat.zero_add, stageRead_startTransfer hwf, if_pos (List.mem_range.1 hj)]

/-- R140, R146: a REFRESH at the port, performed at APP's turn, sends its frame and completes. -/
theorem RefreshAtPort.runs_to_completion {s : State} {w : Word} {more : List Word} {n c : Nat}
    {rest : List Turn} (port : RefreshAtPort w more n c s) (inv : BlockInv s)
    (ready : HandlerReady s) (hidle : s.busy = false)
    (hsched : s.agents.schedule =
      .app :: (List.replicate (transferLength s.cfg.toParams c) .dma ++ .entry :: .irq :: rest)) :
    run (1 + transferLength s.cfg.toParams c + 2) s =
      .next (completed (startTransfer c (popCommand (takeTurn s))) rest) := by
  have hc := effectiveCount_le port.count
  have hstep := port.performed inv hidle (nextTurn_cons hsched)
  have invp : BlockInv (popCommand (takeTurn s)) := inv.of_agents _
  have hleft := (step_schedule hstep).trans (congrArg List.tail (turnsAhead_cons hsched))
  have readyu : HandlerReady (startTransfer c (popCommand (takeTurn s))) :=
    ⟨ready.1, ready.2⟩
  obtain ⟨-, -, thread⟩ := invp.idle hidle
  rw [Nat.add_assoc, Nat.add_comm 1, run_succ hstep]
  exact run_completes (invp.of_startTransfer hidle hc) readyu (startTransfer_busy _ _)
    ((startTransfer_inIrq _ _).trans thread) (startTransfer_dmaCnt_of_le hc) hleft

/-- The frame of count 0 is the gap alone (R123, R144). -/
theorem frame_zero (p : Params) (P : Nat → Color) :
    frame p P 0 = List.replicate p.resetBytes p.idleByte :=
  frame_eq_append p P 0

/-! ## No step answers a fault of the machine (R150) -/

section
variable (r : Fault) (s : State)

theorem inThread_ne_fault {f : State → Result} (h : f s ≠ .fault r) : inThread s f ≠ .fault r := by
  unfold inThread
  split
  · nofun
  · exact h

theorem inInterrupt_ne_fault {f : State → Result} (h : f s ≠ .fault r) :
    inInterrupt s f ≠ .fault r := by
  unfold inInterrupt
  split
  · exact h
  · nofun

/-- A command that has no step is refused, and every other one answers a next state (R206). -/
theorem exec_ne_fault (i : Instr) : exec i s ≠ .fault r := by
  cases i with
  | setpixel k c => rw [exec, execSetpixel]; exact inThread_ne_fault r s nofun
  | fillall c => rw [exec, execFillall]; exact inThread_ne_fault r s nofun
  | getpixel k => rw [exec, execGetpixel]; exact inThread_ne_fault r s nofun
  | complete => rw [exec, execComplete]; exact inInterrupt_ne_fault r s nofun
  | refresh n =>
    by_cases hinit : s.agents.initDone = true
    · obtain ⟨t, ht⟩ := exec_answers (.refresh n) hinit
      simp [ht]
    · simp [exec, execRefresh, hinit]

theorem issue_ne_fault (w : Word) : issue w s ≠ .fault r := by
  unfold issue
  split
  · exact exec_ne_fault r s _
  · nofun

theorem appStep_ne_fault : appStep s ≠ .fault r := by
  unfold appStep
  split
  · nofun
  · split
    · exact issue_ne_fault r _ _
    · nofun

theorem irqStep_ne_fault : irqStep s ≠ .fault r := by
  unfold irqStep
  split
  · exact issue_ne_fault r _ _
  · nofun

theorem BlockInv.step_ne_fault {s : State} (inv : BlockInv s) : step s ≠ .fault r := by
  unfold step
  cases nextTurn s with
  | app => exact appStep_ne_fault r _
  | irq => exact irqStep_ne_fault r _
  | dma =>
    obtain ⟨t, ht⟩ := dmaStep_answers (s := takeTurn s) (inv.of_agents _)
    simp [turnStep, ht]
  | entry => nofun
  | init => nofun
  | reset cs => nofun

end

end Sys2Proof.Machine

/-! ## The statements -/

namespace Sys2Proof.Proofs

open Sys2Proof Sys2Proof.Machine

/-- Settles O59: a REFRESH starts its frame where the frames before it are whole on the wire, a DMA
step moves the next byte of the latest one, and no other step but reset touches either. -/
theorem wireIsTheFramesInOrder : Obligations.WireIsTheFramesInOrder :=
  ⟨wireIsFrames_nil.2 ⟨rfl, rfl⟩, fun _ _ _ inv h hstep => h.of_step inv hstep⟩

/-- Settles O31, by the effective count. -/
theorem refreshStartsTheTransfer : Obligations.RefreshStartsTheTransfer := by
  intro s n thread hinit hidle hwf hn
  have hc := effectiveCount_of_clamp hn
  exact ⟨_, _, exec_refresh_starts thread hinit hidle hc, rfl,
    startTransfer_eq (effectiveCount_le hc), stageRead_startTransfer hwf _⟩

/-- Settles O32: the policy gives the effective count, through which alone a REFRESH reads its
count, and a REFRESH writes the counter and `STAGE` only where it starts a transfer. -/
theorem oversizedCountFollowsThePolicy : Obligations.OversizedCountFollowsThePolicy := by
  intro s n thread hinit hn
  refine ⟨fun hclamp => ?_, fun hreject => ?_, fun hwf hcnt t h => ?_⟩
  · have hc : effectiveCount s.cfg.toParams n = effectiveCount s.cfg.toParams s.cfg.ledCount := by
      rw [effectiveCount_of_clamp (.inr hclamp), if_neg hn.not_ge, effectiveCount_of_le le_rfl]
    exact ⟨exec_refresh_congr hc, commandHeld_refresh_congr hc⟩
  · have hc := effectiveCount_of_reject hn hreject
    exact ⟨exec_refresh_rejected thread hinit hc, commandHeld_refresh_rejected hc⟩
  · rcases (exec_effect h).sameTransfer_or_started with
      ⟨hstage, -, hcnt', -⟩ | ⟨_, c, -, -, -, hc, rfl⟩
    · exact ⟨hcnt'.trans_lt hcnt, fun j _ => congrArg (Memory.read · j) hstage⟩
    · exact ⟨startTransfer_dmaCnt_lt c s,
        fun j => stageRead_startTransfer_past hwf (effectiveCount_le hc)⟩

/-- Settles O34: no word writes `STAGE` while `BUSY = 1`, the DMA agent only reads it, and only
COMPLETE clears `BUSY`. -/
theorem stagingIsNotWrittenWhileBusy : Obligations.StagingIsNotWrittenWhileBusy := by
  intro s t hbusy h hreset
  refine ⟨?_, fun hidle => ?_⟩
  · cases step_effect h with
    | app _ _ _ _ _ _ ht => exact (ht.sameEngine hbusy).1
    | irq _ _ ht => exact (ht.sameEngine hbusy).1
    | reset cs hturn => exact absurd hturn (hreset cs)
    | _ => rfl
  · have hne : t.busy ≠ s.busy := by simp [hidle, hbusy]
    rcases busyHasTwoWriters s t h hreset hne with ⟨hset, -⟩ | ⟨-, hturn, interrupt, -, hd⟩
    · exact absurd (hidle.symm.trans hset) (by decide)
    · exact ⟨hturn, interrupt, hd⟩

/-- Settles O37: with `BUSY = 0` nothing is left to move, pending or handled, and from the second
action to the last the channel is disabled. -/
theorem noAgentStepsInsideARefresh : Obligations.NoAgentStepsInsideARefresh := by
  intro s n c inv thread hinit hidle hc
  refine ⟨exec_refresh_starts thread hinit hidle hc, fun u hu => ?_⟩
  obtain ⟨hcnt, hpend, -⟩ := inv.idle hidle
  have unpending (u : State) (hu : u.tcPend = s.tcPend) : entryEnabled u = false := by
    simp [entryEnabled, hu, hpend]
  have unhandled (u : State) (hu : u.inIrq = s.inIrq) : irqMayIssue u = false := by
    simp [irqMayIssue, hu, thread]
  simp only [List.mem_cons, List.not_mem_nil, or_false] at hu
  rcases hu with rfl | rfl | rfl | rfl
  · exact ⟨dmaEnabled_eq_false_of_dmaCnt hcnt, unpending _ rfl, unhandled _ rfl⟩
  · exact ⟨dmaEnabled_eq_false_of_chEn rfl, unpending _ rfl, unhandled _ rfl⟩
  · exact ⟨dmaEnabled_eq_false_of_chEn rfl, unpending _ rfl, unhandled _ rfl⟩
  · exact ⟨dmaEnabled_eq_false_of_chEn rfl, unpending _ rfl, unhandled _ rfl⟩

/-- Settles O40: the release leaves the REFRESH at the port of a block that is idle and in the
thread context, so APP's turn starts the transfer. -/
theorem refreshAfterCompletePerformsAtOnce : Obligations.RefreshAfterCompletePerformsAtOnce := by
  intro s t w rest n c interrupt hbusy hwf running hinit hs hd hc hturn h
  have hrelease := exec_complete_releases interrupt hbusy
  obtain rfl : _ = t := Host.Outcome.next.inj (hrelease.symm.trans h)
  have hfree : commandHeld (.refresh n) (returnFromInterrupt (releaseBusy s)) = false :=
    commandHeld_refresh_idle rfl
  have hstep := step_refresh_starts (s := returnFromInterrupt (releaseBusy s))
    ⟨hs, running, hinit, hd, hc⟩ rfl rfl hturn
  refine ⟨rfl, hfree, _, hstep, startTransfer_busy _ _, startTransfer_chEn _ _,
    startTransfer_dmaPtr _ _, ?_, startTransfer_wire _ _, by simp [hs], fun j hj => ?_⟩
  · exact startTransfer_dmaCnt_of_le (s := popCommand (takeTurn _)) (effectiveCount_le hc)
  · exact (stageRead_startTransfer hwf c j).trans (if_pos hj)

/-- Settles O41: the byte is in range because the bytes moved and the bytes left are together a
whole transfer's length. -/
theorem dmaStepMovesOneByte : Obligations.DmaStepMovesOneByte := by
  intro s inv hturn
  refine ⟨fun hen hcnt => dmaPtr_lt_stageLength inv ((dmaEnabled_iff s).2 ⟨hen, hcnt⟩), ?_⟩
  by_cases h : s.chEn = true ∧ 0 < s.dmaCnt
  · rw [step_dma_of_enabled inv hturn ((dmaEnabled_iff s).2 h), if_pos h,
      ← pendingAfter_sub_one h.2]
    rfl
  · have hno : dmaEnabled s = false := Bool.eq_false_of_not_eq_true (mt (dmaEnabled_iff s).1 h)
    rw [if_neg h]
    exact (step_eq hturn).trans (dmaStep_of_not_enabled (s := takeTurn s) hno)

/-- Settles O42: the step keeps the invariant, by which a notified transfer is in flight with
nothing left to move, on an enabled channel whose pointer and counter add up to a whole length. -/
theorem notificationEndsTheMoving : Obligations.NotificationEndsTheMoving := by
  intro s t inv h hpend hset
  have invt := inv.of_step h
  obtain ⟨hbusy, hcnt, -⟩ := invt.pending hset
  have hen : t.chEn = true := by
    by_contra hen
    obtain ⟨-, -, hidle⟩ := invt.disabled (Bool.eq_false_of_not_eq_true hen)
    exact absurd (hbusy.symm.trans hidle) (by decide)
  obtain ⟨c, hc, hlength⟩ := invt.length hen
  exact ⟨hen, hcnt, dmaEnabled_eq_false_of_dmaCnt hcnt, c, hc, by simpa [hcnt] using hlength⟩

/-- Settles O46: the DMA agent's turns move the bytes left one by one, and the last one
notifies ENTRY. -/
theorem transferRunsToCompletion : Obligations.TransferRunsToCompletion := by
  intro s rest inv ready hcnt hsched
  obtain ⟨hbusy, -, hpend, thread⟩ := inv.moving hcnt
  rw [run_completes inv ready hbusy thread rfl hsched]
  simp [completed, pledgedWire, hpend, thread]

/-- Settles O47: the frame of count 0 is the gap alone, and its transfer completes like any
other. -/
theorem emptyRefreshSendsOnlyTheGap : Obligations.EmptyRefreshSendsOnlyTheGap := by
  intro s more rest inv ready thread hidle running hinit hs hsched
  have hlength : transferLength s.cfg.toParams 0 = s.cfg.resetBytes := by simp [transferLength]
  have hc : effectiveCount s.cfg.toParams 0 = some 0 := effectiveCount_of_le (Nat.zero_le _)
  have port : RefreshAtPort _ more 0 0 s := ⟨hs, running, hinit, decode_encode rfl, hc⟩
  have invp : BlockInv (popCommand (takeTurn s)) := inv.of_agents _
  have hcnt := startTransfer_dmaCnt_of_le (s := popCommand (takeTurn s)) (Nat.zero_le _)
  have hwire := pledgedWire_startTransfer invp.stage_wf (Nat.zero_le _)
  rw [frame_zero] at hwire
  rw [← hlength] at hsched
  have hrun := port.runs_to_completion inv ready hidle hsched
  rw [hlength] at hrun
  refine ⟨_, _, port.performed inv hidle (nextTurn_cons hsched), startTransfer_busy _ _,
    hcnt.trans hlength, startTransfer_wire _ _, fun j => ?_, hrun, hwire, rfl, rfl, rfl, rfl, ?_⟩
  · rw [stageRead_startTransfer invp.stage_wf]
    simp [hlength, frameByte_idle]
  · simp [completed, hs]

/-- Settles O56: the DMA agent reads within `STAGE`, no command stops with a fault, and after
initialisation none is refused. -/
theorem stepAlwaysAnswersANextState : Obligations.StepAlwaysAnswersANextState :=
  fun _ inv => ⟨fun r => inv.step_ne_fault r, inv.step_answers⟩

/-- Settles O33: where a transfer is in flight APP has no step, because its word is held. -/
theorem heldRefreshChangesNothing : Obligations.HeldRefreshChangesNothing := by
  intro s w rest n c hturn hs hd hc hinit hbusy
  have hheld : wordHeld w s = true := (refreshWaits_cons hs hd hinit hc).2.trans hbusy
  have hno : appEnabled s = false := by simp [appEnabled, hs, hheld]
  exact ⟨(step_eq hturn).trans (appStep_of_not_enabled (s := takeTurn s) hno), hs, rfl⟩

/-- Settles O38: COMPLETE is never held, and with `BUSY = 1` it releases and returns. -/
theorem completeReleasesAndReturns : Obligations.CompleteReleasesAndReturns :=
  fun _ interrupt hbusy => ⟨rfl, exec_complete_releases interrupt hbusy⟩

/-- Settles O39: the fault raised is SPURIOUS_COMPLETE, whose issuer in the interrupt context
is IRQ. -/
theorem spuriousCompleteFaults : Obligations.SpuriousCompleteFaults := by
  intro s interrupt hidle
  rw [exec_complete_spurious interrupt hidle, raiseFault_of_interrupt interrupt]
  rfl

end Sys2Proof.Proofs
end

section
/-! The family of 60_exceptions.md: a turn whose agent has no step, what raising a fault keeps and
records, and the steps of the agents that no fault stops. -/

namespace Sys2Proof.Machine

/-! ## A turn whose agent has no step (R150, R175, R176, R179) -/

section
variable {s : State}

theorem appEnabled_eq_false_of_appMayIssue (h : appMayIssue s = false) : appEnabled s = false := by
  unfold appEnabled
  split <;> simp [h]

/-- APP has no step in the interrupt context (R179). -/
theorem appMayIssue_of_interrupt (interrupt : s.inIrq = true) : appMayIssue s = false := by
  simp [appMayIssue, interrupt]

/-- APP has no step once it has faulted (R170). -/
theorem appMayIssue_of_stopped (h : s.agents.appStopped = true) : appMayIssue s = false := by
  simp [appMayIssue, h]

/-- IRQ has no step in the thread context (R176). -/
theorem irqMayIssue_of_thread (thread : s.inIrq = false) : irqMayIssue s = false := by
  simp [irqMayIssue, thread]

/-- IRQ has no step once it has faulted (R170, R181). -/
theorem irqMayIssue_of_stopped (h : s.agents.irqStopped = true) : irqMayIssue s = false := by
  simp [irqMayIssue, h]

theorem step_app_of_not_may (hturn : nextTurn s = .app) (h : appMayIssue s = false) :
    step s = .next (takeTurn s) :=
  (step_eq hturn).trans (appStep_of_not_enabled (appEnabled_eq_false_of_appMayIssue h))

theorem step_irq_of_not_may (hturn : nextTurn s = .irq) (h : irqMayIssue s = false) :
    step s = .next (takeTurn s) :=
  (step_eq hturn).trans (irqStep_of_not_enabled (s := takeTurn s) h)

theorem step_dma_of_not_enabled (hturn : nextTurn s = .dma) (h : dmaEnabled s = false) :
    step s = .next (takeTurn s) :=
  (step_eq hturn).trans (dmaStep_of_not_enabled (s := takeTurn s) h)

theorem step_entry_of_not_enabled (hturn : nextTurn s = .entry) (h : entryEnabled s = false) :
    step s = .next (takeTurn s) :=
  (step_eq hturn).trans (entryStep_of_not_enabled (s := takeTurn s) h)

end

/-! ## Raising a fault records it and stops its issuer (R170) -/

theorem faultBit_ne_zero (code : FaultCode) : faultBit code ≠ 0 := by
  cases code <;> decide

theorem recordFault_ne_zero (f : BitVec 8) (code : FaultCode) : recordFault f code ≠ 0 := by
  intro h
  obtain ⟨-, hbit⟩ := BitVec.or_eq_zero_iff.1 h
  exact faultBit_ne_zero code hbit

/-- A word at the port raises a fault, or writes neither `FAULT` nor what belongs to the agents. -/
theorem IssueEffect.raised_or_kept {w : Word} {s t : State} (h : IssueEffect w s t) :
    (∃ code, t = raiseFault code s) ∨ (t.fault = s.fault ∧ t.agents = s.agents) := by
  cases h with
  | rejected code => exact .inl ⟨code, rfl⟩
  | command i _ h =>
    cases h with
    | faulted code => exact .inl ⟨code, rfl⟩
    | _ => exact .inr ⟨rfl, rfl⟩

/-- The agents that have stopped in `s` have stopped in `t`. -/
def StoppedStay (s t : State) : Prop :=
  (s.agents.appStopped = true → t.agents.appStopped = true) ∧
  (s.agents.irqStopped = true → t.agents.irqStopped = true)

theorem stoppedStay_raiseFault (code : FaultCode) (s : State) :
    StoppedStay s (raiseFault code s) := by
  cases hi : s.inIrq with
  | false => rw [raiseFault_of_thread hi]; exact ⟨fun _ => rfl, id⟩
  | true => rw [raiseFault_of_interrupt hi]; exact ⟨id, fun _ => rfl⟩

theorem IssueEffect.stoppedStay {w : Word} {s t : State} (h : IssueEffect w s t) :
    StoppedStay s t := by
  rcases h.raised_or_kept with ⟨code, rfl⟩ | ⟨-, hagents⟩
  · exact stoppedStay_raiseFault code s
  · simp [StoppedStay, hagents]

/-- R170: no step but a reset starts a stopped agent again. -/
theorem step_stoppedStay {s t : State} (h : step s = .next t)
    (hreset : ∀ cs, nextTurn s ≠ .reset cs) : StoppedStay s t := by
  cases step_effect h with
  | app _ _ _ _ _ _ ht => exact ht.stoppedStay
  | irq _ _ ht => exact ht.stoppedStay
  | reset cs hturn => exact absurd hturn (hreset cs)
  | _ => exact ⟨id, id⟩

/-- A fault is recorded exactly where an agent has stopped. -/
def StopsAreRecorded (s : State) : Prop :=
  s.fault ≠ 0 ↔ s.agents.appStopped = true ∨ s.agents.irqStopped = true

theorem stopsAreRecorded_raiseFault (code : FaultCode) (s : State) :
    StopsAreRecorded (raiseFault code s) :=
  iff_of_true (recordFault_ne_zero s.fault code) (stopped_stopIssuer s.inIrq s.agents)

theorem IssueEffect.stopsAreRecorded {w : Word} {s t : State} (h : IssueEffect w s t)
    (hs : StopsAreRecorded s) : StopsAreRecorded t := by
  rcases h.raised_or_kept with ⟨code, rfl⟩ | ⟨hfault, hagents⟩
  · exact stopsAreRecorded_raiseFault code s
  · rwa [StopsAreRecorded, hfault, hagents]

theorem stopsAreRecorded_resetBlock (pixel : Nat → Color) (staged : Nat → Byte) (rdata : Color)
    (cs : List Word) (s : State) : StopsAreRecorded (resetBlock pixel staged rdata cs s) := by
  simp [StopsAreRecorded, resetBlock]

theorem step_stopsAreRecorded {s t : State} (hs : StopsAreRecorded s) (h : step s = .next t) :
    StopsAreRecorded t := by
  cases step_effect h with
  | app _ _ _ _ _ _ ht => exact ht.stopsAreRecorded hs
  | irq _ _ ht => exact ht.stopsAreRecorded hs
  | reset => exact stopsAreRecorded_resetBlock _ _ _ _ _
  | _ => exact hs

/-! ## The DMA agent and ENTRY do not depend on what is recorded (R170) -/

/-- The state with other values of `FAULT` and of the agents' stop flags. -/
def setFaults (f : BitVec 8) (app irq : Bool) (s : State) : State :=
  { s with fault := f, agents := { s.agents with appStopped := app, irqStopped := irq } }

section
variable {s t : State} (f : BitVec 8) (app irq : Bool)

theorem dmaStep_setFaults (h : dmaStep s = .next t) :
    dmaStep (setFaults f app irq s) = .next (setFaults f app irq t) := by
  unfold dmaStep at h
  split at h
  next enabled =>
    split at h
    · next hp => cases h; exact (if_pos enabled).trans (if_pos hp)
    · cases h
  next hno => cases h; exact if_neg hno

theorem entryStep_setFaults (h : entryStep s = .next t) :
    entryStep (setFaults f app irq s) = .next (setFaults f app irq t) := by
  cases enabled : entryEnabled s with
  | true =>
    cases h.symm.trans (entryStep_of_enabled enabled)
    exact entryStep_of_enabled (s := setFaults f app irq s) enabled
  | false =>
    cases h.symm.trans (entryStep_of_not_enabled enabled)
    exact entryStep_of_not_enabled (s := setFaults f app irq s) enabled

theorem nextTurn_setFaults : nextTurn (setFaults f app irq s) = nextTurn s := rfl

theorem takeTurn_setFaults :
    takeTurn (setFaults f app irq s) = setFaults f app irq (takeTurn s) := rfl

theorem step_setFaults (hturn : nextTurn s = .dma ∨ nextTurn s = .entry) (h : step s = .next t) :
    step (setFaults f app irq s) = .next (setFaults f app irq t) := by
  rw [step, nextTurn_setFaults, takeTurn_setFaults]
  rcases hturn with hturn | hturn
  · rw [step_eq hturn] at h
    rw [hturn]
    exact dmaStep_setFaults f app irq h
  · rw [step_eq hturn] at h
    rw [hturn]
    exact entryStep_setFaults f app irq h

end

end Sys2Proof.Machine

/-! ## The statements -/

namespace Sys2Proof.Proofs

open Sys2Proof Sys2Proof.Machine

/-- Settles O48: no word clears a stop flag and a stopped agent may not issue; neither the DMA
agent's step nor ENTRY's reads `FAULT` or the flags. -/
theorem faultStopsOnlyItsIssuer : Obligations.FaultStopsOnlyItsIssuer := by
  refine ⟨fun s t h hreset => ?_, fun _ _ f app irq => step_setFaults f app irq⟩
  obtain ⟨happ, hirq⟩ := step_stoppedStay h hreset
  refine ⟨fun hs => ⟨happ hs, fun hturn => ?_⟩, fun hs => ⟨hirq hs, fun hturn => ?_⟩⟩
  · have hstep := step_app_of_not_may hturn (appMayIssue_of_stopped hs)
    exact Host.Outcome.next.inj (h.symm.trans hstep)
  · have hstep := step_irq_of_not_may hturn (irqMayIssue_of_stopped hs)
    exact Host.Outcome.next.inj (h.symm.trans hstep)

/-- Settles O50: a word that raises a fault sets a bit and a stop flag, every other word keeps both,
and reset clears both. -/
theorem stoppedAgentMeansRecordedFault : Obligations.StoppedAgentMeansRecordedFault :=
  fun _ _ hs h => step_stopsAreRecorded hs h

/-- Settles O11: APP may not issue in the interrupt context, where the transfer has nothing left to
move. -/
theorem appHasNoStepInInterruptContext : Obligations.AppHasNoStepInInterruptContext := by
  intro s inv interrupt
  obtain ⟨-, hcnt, -⟩ := inv.handling interrupt
  exact ⟨fun hturn => step_app_of_not_may hturn (appMayIssue_of_interrupt interrupt),
    fun hturn => step_dma_of_not_enabled hturn (dmaEnabled_eq_false_of_dmaCnt hcnt)⟩

/-- Settles O43: the condition is ENTRY's enabledness. -/
theorem interruptEntryTakesTheNotification : Obligations.InterruptEntryTakesTheNotification := by
  intro s hturn
  simp only [← entryEnabled_iff]
  cases enabled : entryEnabled s with
  | true => exact step_entry_of_enabled hturn enabled
  | false => exact step_entry_of_not_enabled hturn enabled

/-- Settles O44: by the invariant a transfer is in flight in the interrupt context, so the handler's
COMPLETE has something to release. -/
theorem irqStepPerformsComplete : Obligations.IrqStepPerformsComplete := by
  intro s inv ready hturn
  cases hi : s.inIrq with
  | true =>
    obtain ⟨hbusy, -⟩ := inv.handling hi
    exact step_irq_releases ready hturn hi hbusy
  | false => exact step_irq_of_not_may hturn (irqMayIssue_of_thread hi)

end Sys2Proof.Proofs
end

section
/-! The family of 70_reset_and_hazards.md: what a reset leaves in the arrays and which agents it
leaves a step, the turn of the reset input, and a REFRESH before initialisation. -/

namespace Sys2Proof.Machine

/-- R201: with `RESET_ZERO_FILL` every index of an array reads as zero after reset, past its end too
(log entry 4). -/
theorem read_resetContents_of_zeroFill {w : Nat} {p : Params} (hzero : p.resetZeroFill = true)
    (n : Nat) (unspecified : Nat → BitVec w) (k : Nat) :
    (resetContents p n unspecified).read k = 0 := by
  rw [resetContents, if_pos hzero, Memory.read_ofFn]
  split <;> rfl

section
variable (pixel : Nat → Color) (staged : Nat → Byte) (rdata : Color) (s : State)

/-- R201: with `RESET_ZERO_FILL` reset clears both arrays. -/
theorem arrays_resetBlock_of_zeroFill (hzero : s.cfg.resetZeroFill = true) (cs : List Word)
    (k : Nat) :
    pixRead (resetBlock pixel staged rdata cs s) k = 0 ∧
    stageRead (resetBlock pixel staged rdata cs s) k = 0 :=
  ⟨read_resetContents_of_zeroFill hzero _ pixel k, read_resetContents_of_zeroFill hzero _ staged k⟩

/-- R202: after a reset with no command for APP no agent has a step: APP has nothing to issue, the
context is the thread's, nothing is pending and the channel is off. -/
theorem quiescent_resetBlock_nil : quiescent (resetBlock pixel staged rdata [] s) = true := by
  refine (quiescent_iff _).2 ⟨?app, ?irq, ?entry, ?dma⟩
  case app => rfl
  case irq => exact irqMayIssue_of_thread rfl
  case entry => rfl
  case dma => exact dmaEnabled_eq_false_of_chEn rfl

end

/-- The turn of the reset input resets the block, with the free values of that turn (R200, R201). -/
theorem step_reset {s : State} {cs : List Word} (hturn : nextTurn s = .reset cs) :
    step s = .next (resetBlock (Config.freePixel (s.agents.tick + 1))
      (Config.freeStage (s.agents.tick + 1)) (Config.freeRdata (s.agents.tick + 1)) cs
      (takeTurn s)) :=
  step_eq hturn

/-- R206: `INIT_DONE` is the first thing a REFRESH asks for (log entry 10). -/
theorem exec_refresh_before_init {s : State} (hinit : s.agents.initDone = false) (n : Nat) :
    exec (.refresh n) s = .refused .refreshBeforeInit := by
  have hnot : ¬ s.agents.initDone = true := Bool.eq_false_iff.1 hinit
  rw [exec, execRefresh, if_neg hnot]

end Sys2Proof.Machine

/-! ## The statements -/

namespace Sys2Proof.Proofs

open Sys2Proof Sys2Proof.Machine

/-- Settles O53: the reset turn answers the reset block, whose control and status elements are
constants; the arrays are zero where every entry of them is filled with zero. -/
theorem resetInputSetsEveryElement : Obligations.ResetInputSetsEveryElement := by
  intro s cs hturn
  refine ⟨_, step_reset hturn, rfl, rfl, rfl, rfl, rfl, rfl, rfl, rfl, rfl, rfl, fun hzero k => ?_⟩
  exact arrays_resetBlock_of_zeroFill _ _ _ (takeTurn s) hzero cs k

/-- Settles O36: without `INIT_DONE` REFRESH makes none of its other checks. -/
theorem refreshBeforeInitIsRefused : Obligations.RefreshBeforeInitIsRefused :=
  fun _ n hinit => exec_refresh_before_init hinit n

/-- Settles O52: the control and status elements are read off `State.reset`, which is at rest because
it is a reset block without a command. -/
theorem resetStateIsTheSpecs : Obligations.ResetStateIsTheSpecs := by
  have hrest : quiescent State.reset = true :=
    reset_eq_resetBlock ▸ quiescent_resetBlock_nil _ _ _ _
  exact ⟨rfl, rfl, rfl, rfl, rfl, rfl, rfl, rfl, rfl, hrest⟩

end Sys2Proof.Proofs
end
